-- ==== Sys2Proof/Word.lean ====
section
/-! DEFINITION. The word types of the block (00_scope.md R5, R6): every quantity is unsigned and of a fixed width. -/

namespace Sys2Proof

/-- An 8-bit value: a general register, a timer, a byte of memory (R5). -/
abbrev Byte := BitVec 8

/-- A 16-bit value: an opcode, `I`, `PC`, a stack entry (R5). -/
abbrev Word := BitVec 16

/-- A register field `x` or `y` (30_encoding.md R91): every value 0..15 names a register (R93). -/
abbrev Reg := BitVec 4

/-- The 4-bit immediate `n` (R91). -/
abbrev Nibble := BitVec 4

/-- The 12-bit address immediate `nnn` (R91). -/
abbrev Addr := BitVec 12

end Sys2Proof
end

