-- ==== Sys2Proof/Config.lean ====
section
/-! DEFINITION. What is fixed before a run (00_scope.md R5) and the free values: the parameters of the block, the open
policy `KEY_OOR`, and the inputs of a step of which nothing is known. -/

namespace Sys2Proof

/-- `MEM_SIZE` (R5): 4096 bytes, so every access is reduced mod 4096 (20_memory.md R61). -/
@[simp, reducible] def Config.memSize : Nat := 4096

/-- `PROG_BASE`, `InitialProgramCounter` (R5). -/
@[simp, reducible] def Config.progBase : Nat := 0x200

/-- `MAX_PROG`, the largest legal image (R5, 70_reset_and_hazards.md R252). -/
@[simp, reducible] def Config.maxProg : Nat := 3584

/-- The values of the parameter `KEY_OOR`: what `Ex9E` and `ExA1` do with a key index above 15
(00_scope.md R5, 45_keypad_timers.md R201, D11). -/
inductive KeyOor where
  | refuse      -- the situation has no step
  | mask        -- the index is reduced to `Vx & 0xF`
  | notPressed  -- the key counts as not pressed
  deriving DecidableEq, Repr, Inhabited

/-- The parameter `KEY_OOR`, OPEN in the spec (R5, D11), and a constant without a value here: what is proved holds under
every policy, the spec's default among them. DESIGN CHOICE, safe: entry 5. -/
opaque Config.keyOor : KeyOor

/-- Free value: the levels `KEYS[0..15]` of the `n`-th `Step` where the host's schedule does not give them
(10_state.md R34). DESIGN CHOICE, safe: entry 2. -/
opaque Config.freeKeys : Nat → Vector Bool 16

/-- Free value: the key-down event `KEYDOWN` of the `n`-th `Step` where the host's schedule does not give it (R34).
DESIGN CHOICE, safe: entry 2. -/
opaque Config.freeKeyDown : Nat → Option (BitVec 4)

/-- Free value: the random byte `RND` of the `n`-th `Step` where the host's schedule does not give it (R34, D13).
DESIGN CHOICE, safe: entry 2. -/
opaque Config.freeRnd : Nat → Byte

end Sys2Proof
end

