-- ==== Sys2Proof/Machine/Font.lean ====
section
/-! DEFINITION. The type of the parameter `FONT` and the default the spec gives it (00_scope.md R5, 10_state.md R22). -/

namespace Sys2Proof.Machine

/-- `FONT`: the 80 bytes installed at 0x000..0x04F, 16 glyphs of 5 bytes (R5, R22). -/
abbrev Font := Vector Byte 80

/-- Glyphs 0 to 3 of the default `FONT` (10_state.md R22). -/
def fontGlyphs0to3 : Vector Byte 20 :=
  #v[0xF0, 0x90, 0x90, 0x90, 0xF0,  0x20, 0x60, 0x20, 0x20, 0x70,
   0xF0, 0x10, 0xF0, 0x80, 0xF0,  0xF0, 0x10, 0xF0, 0x10, 0xF0]

/-- Glyphs 4 to 7 of the default `FONT` (R22). -/
def fontGlyphs4to7 : Vector Byte 20 :=
  #v[0x90, 0x90, 0xF0, 0x10, 0x10,  0xF0, 0x80, 0xF0, 0x10, 0xF0,
   0xF0, 0x80, 0xF0, 0x90, 0xF0,  0xF0, 0x10, 0x20, 0x40, 0x40]

/-- Glyphs 8 to B of the default `FONT` (R22). -/
def fontGlyphs8toB : Vector Byte 20 :=
  #v[0xF0, 0x90, 0xF0, 0x90, 0xF0,  0xF0, 0x90, 0xF0, 0x10, 0xF0,
   0xF0, 0x90, 0xF0, 0x90, 0x90,  0xE0, 0x90, 0xE0, 0x90, 0xE0]

/-- Glyphs C to F of the default `FONT` (R22). -/
def fontGlyphsCtoF : Vector Byte 20 :=
  #v[0xF0, 0x80, 0x80, 0x80, 0xF0,  0xE0, 0x90, 0x90, 0x90, 0xE0,
   0xF0, 0x80, 0xF0, 0x80, 0xF0,  0xF0, 0x80, 0xF0, 0x80, 0x80]

/-- The default of `FONT` (R22, D14), glyph 0 first. PRESUMED (the spec takes the bytes from general knowledge, G1), unsafe
for a claim about a run from reset that reads the font: entry 6. -/
def defaultFont : Font := fontGlyphs0to3 ++ fontGlyphs4to7 ++ fontGlyphs8toB ++ fontGlyphsCtoF

end Sys2Proof.Machine
end

