-- ==== Sys2Proof/Syntax.lean ====
section
/-! DEFINITION. The instructions: one constructor per row of the opcode map (30_encoding.md R95) and one for the row
`Unknown` (R96), with the fields of R91. -/

namespace Sys2Proof

/-- The instruction set. A field that the spec decodes and no operation reads (the low nibble of `5xyN` and `9xyN`, R97;
the `y` of `8xy6` and `8xyE`, R98) is kept, so that an instruction holds every bit of its word (entry 22). -/
inductive Instr where
  | cls                             -- 00E0 CLS
  | ret                             -- 00EE RET
  | jp (nnn : Addr)                 -- 1nnn JP nnn
  | call (nnn : Addr)               -- 2nnn CALL nnn
  | seImm (x : Reg) (kk : Byte)     -- 3xkk SE Vx, kk
  | sneImm (x : Reg) (kk : Byte)    -- 4xkk SNE Vx, kk
  | seReg (x y : Reg) (n : Nibble)  -- 5xyN SE Vx, Vy, n not examined
  | ldImm (x : Reg) (kk : Byte)     -- 6xkk LD Vx, kk
  | addImm (x : Reg) (kk : Byte)    -- 7xkk ADD Vx, kk
  | ldReg (x y : Reg)               -- 8xy0 LD Vx, Vy
  | orReg (x y : Reg)               -- 8xy1 OR Vx, Vy
  | andReg (x y : Reg)              -- 8xy2 AND Vx, Vy
  | xorReg (x y : Reg)              -- 8xy3 XOR Vx, Vy
  | addReg (x y : Reg)              -- 8xy4 ADD Vx, Vy
  | subReg (x y : Reg)              -- 8xy5 SUB Vx, Vy
  | shr (x y : Reg)                 -- 8xy6 SHR Vx, y ignored
  | subn (x y : Reg)                -- 8xy7 SUBN Vx, Vy
  | shl (x y : Reg)                 -- 8xyE SHL Vx, y ignored
  | sneReg (x y : Reg) (n : Nibble) -- 9xyN SNE Vx, Vy, n not examined
  | ldI (nnn : Addr)                -- Annn LD I, nnn
  | jpV0 (nnn : Addr)               -- Bnnn JP V0, nnn
  | rnd (x : Reg) (kk : Byte)       -- Cxkk RND Vx, kk
  | drw (x y : Reg) (n : Nibble)    -- Dxyn DRW Vx, Vy, n
  | skp (x : Reg)                   -- Ex9E SKP Vx
  | sknp (x : Reg)                  -- ExA1 SKNP Vx
  | ldVxDT (x : Reg)                -- Fx07 LD Vx, DT
  | ldVxK (x : Reg)                 -- Fx0A LD Vx, K
  | ldDTVx (x : Reg)                -- Fx15 LD DT, Vx
  | ldSTVx (x : Reg)                -- Fx18 LD ST, Vx
  | addI (x : Reg)                  -- Fx1E ADD I, Vx
  | ldF (x : Reg)                   -- Fx29 LD F, Vx
  | ldB (x : Reg)                   -- Fx33 LD B, Vx
  | stRegs (x : Reg)                -- Fx55 LD [I], Vx
  | ldRegs (x : Reg)                -- Fx65 LD Vx, [I]
  | unknown (op : Word)             -- every other word, R96
  deriving DecidableEq, Repr

end Sys2Proof
end

