-- ==== Sys2Proof/Machine/State.lean ====
section
/-! DEFINITION. The state of the block (10_state.md R20) with the inputs and outputs of its operations written as plain data,
the reasons a step can stop, and the state after power-on (R39, 70_reset_and_hazards.md R250). -/

namespace Sys2Proof.Machine

/-- Why a `Step` returns `Halt(cause)` (60_exceptions.md R220, R227). The outcome carries no state because a fatal step
changes nothing (R224): the machine keeps the state it had, and the host goes on from it (R232; entry 30). -/
inductive Fault where
  /-- Raised by the halt check of any `Step`, before the fetch, when `PC > 0x200 + PSIZE` (R221); `pc` is the value
  recorded. The spec's own stop: safe. -/
  | pcPastEnd (pc : Word)
  /-- Raised by `2nnn` when `SP = 16` (R222); `pc` is the address of the call. The spec's own stop: safe. -/
  | stackOverflow (pc : Word)
  /-- Raised by `00EE` when `SP = 0` (R223); `pc` is the address of the return. The spec's own stop: safe. -/
  | stackUnderflow (pc : Word)
  deriving DecidableEq, Repr

/-- Situations the spec refuses, giving them no step (93_implementation_defined.md), and instructions not modelled. -/
inductive Refusal where
  /-- An instruction whose arm of `exec` has no meaning yet; raised by no arm of this model. Safe. -/
  | notModelled (mnemonic : String)
  /-- Raised by `Ex9E` and `ExA1` when `Vx > 15` and the parameter `KEY_OOR` is `refuse` (45_keypad_timers.md R201, R202,
  U2); `k` is the index. Safe. -/
  | keyIndexOutOfRange (k : Byte)
  /-- Raised by the host operation `LoadProgram` on an image of more than 3584 bytes (70_reset_and_hazards.md R252, U1);
  `size` is its length. Safe. -/
  | programTooLarge (size : Nat)
  /-- Raised by the host operation `LoadProgram` while a run is in progress, which the spec refuses (R252, D25, U7). Safe. -/
  | loadDuringRun
  deriving DecidableEq, Repr

/-- `FB`: 32 rows of 64 one-bit pixels (10_state.md R20, R31); the pixel at row `r`, column `c` is bit `c` of row `r`
(entry 19). -/
abbrev Framebuffer := Vector (BitVec 64) 32

/-- `MEM` as the bytes that differ from the reset content, by strictly rising address (10_state.md R21, R39). -/
abbrev Memory := List Host.Cell

/-- The output events (10_state.md R35). -/
inductive Event where
  | present (grid : Framebuffer)          -- `Present`, a copy of `FB` at the moment of emission
  | setTone (on : Bool)                   -- `SetTone(b)`
  | unknownOpcode (op : Word) (pc : Word) -- `UnknownOpcode(op, pc)`
  | waiting                               -- `Waiting`
  deriving DecidableEq, Repr

/-- The inputs of one `Step` (10_state.md R34): no law relates them. -/
structure StepInputs where
  keys    : Vector Bool 16      -- `KEYS[0..15]`
  keyDown : Option (BitVec 4)   -- `KEYDOWN`: none, or the key that went down
  rnd     : Byte                -- `RND`
  deriving DecidableEq, Repr

/-- One operation the host invokes (00_scope.md R8), or its stopping of a run (70_reset_and_hazards.md R256). -/
inductive HostOp where
  | construct                           -- `Construct()`
  | loadProgram (bytes : List Byte)     -- `LoadProgram(bytes)`
  | runEntry                            -- `RunEntry()`
  | step (inputs : Option StepInputs)   -- `Step(KEYS, KEYDOWN, RND)`; none: nothing is known of the inputs
  | timerTick                           -- `TimerTick()`
  | stop                                -- the host stops the run: no operation of the block, it changes no state of it
  deriving DecidableEq, Repr

/-- The state of the block (R20), its parameter `FONT`, and the model's own fields. -/
structure State where
  mem     : Memory            -- `MEM` (R21)
  v       : Vector Byte 16    -- `V[0..15]` (R23), `VF` = `V[15]` (R24)
  i       : Word              -- `I` (R25)
  pc      : Word              -- `PC` (R26)
  stack   : Vector Word 16    -- `STACK[0..15]` (R27)
  sp      : Fin 17            -- `SP`, 0..16 (R28)
  dt      : Byte              -- `DT` (R29)
  st      : Byte              -- `ST` (R30)
  fb      : Framebuffer       -- `FB` (R31)
  tone    : Bool              -- `TONE` (R32)
  psize   : Nat               -- `PSIZE`, 0..3584 (R33)
  font    : Font              -- the parameter `FONT` (00_scope.md R5, R22): no operation changes it (entry 6)
  events  : List Event        -- the events emitted so far, oldest first (R35; entry 4)
  script  : List HostOp       -- what the host invokes next, oldest first (R8; entry 1)
  inputs  : Option StepInputs -- the inputs of the `Step` being performed (R34; entry 2)
  draws   : Nat               -- counts `Step`s, for the free values (entry 2)
  running : Bool              -- a run was entered, and neither stopped nor loaded over (R252; entry 13)
  result  : Option Fault      -- the result of the last `Step`: none is `Continue`, some is `Halt` (R35; entry 30)
  deriving DecidableEq, Repr

/-- The state after power-on, `Construct` (R39, R250): every element zero, the font installed, which is what an unlisted
byte of memory reads as. `FONT` is at its default (entry 6). The host's schedule is empty: no program is loaded and none is
invented (entry 10). -/
def State.reset : State where
  mem     := []
  v       := Vector.replicate 16 0
  i       := 0
  pc      := 0
  stack   := Vector.replicate 16 0
  sp      := 0
  dt      := 0
  st      := 0
  fb      := Vector.replicate 32 0
  tone    := false
  psize   := 0
  font    := defaultFont
  events  := []
  script  := []
  inputs  := none
  draws   := 0
  running := false
  result  := none

end Sys2Proof.Machine
end

