-- ==== Sys2Proof/Machine/Ops.lean ====
section
/-! DEFINITION. The shared operations: memory, registers, the call stack, the program counter, the timers and the audio gate,
the framebuffer, events, the fetch, the halt check and raising a fatal condition. -/

namespace Sys2Proof.Machine

/-! ## Memory (00_scope.md R7, 20_memory.md) -/

/-- What a byte that nothing has written reads as: `FONT` at 0x000..0x04F, zero above (10_state.md R22, R39; 20_memory.md
R66). -/
def Memory.initial (font : Font) (a : Nat) : Byte := if h : a < 80 then font[a] else 0#8

/-- The byte listed at `a`, if one is. -/
def Memory.find : Memory → Nat → Option Byte
  | [], _ => none
  | (a', b) :: m, a => if a' = a then some b else Memory.find m a

/-- `MemRead(a, 1) = MEM[a mod 4096]` (R7, R61). -/
def Memory.read (m : Memory) (font : Font) (a : Nat) : Byte :=
  (Memory.find m (a % Config.memSize)).getD (Memory.initial font (a % Config.memSize))

/-- `m` without any byte listed at `a`. -/
def Memory.remove : Memory → Nat → Memory
  | [], _ => []
  | (a', b') :: m, a => if a' = a then Memory.remove m a else (a', b') :: Memory.remove m a

/-- `m` with the byte `b` listed at `a`, before the first higher address. -/
def Memory.insert : Memory → Nat → Byte → Memory
  | [], a, b => [(a, b)]
  | (a', b') :: m, a, b => if a < a' then (a, b) :: (a', b') :: m else (a', b') :: Memory.insert m a b

/-- `m` with the byte at `a` made `b`, in canonical form: a byte equal to the reset content is not listed. -/
def Memory.put (m : Memory) (font : Font) (a : Nat) (b : Byte) : Memory :=
  if b = Memory.initial font a then m.remove a else (m.remove a).insert a b

/-- `MemWrite(a, 1, b)`: `MEM[a mod 4096] <- b` (R7, R61). -/
def Memory.write (m : Memory) (font : Font) (a : Nat) (b : Byte) : Memory := m.put font (a % Config.memSize) b

/-- Every listed address is at least `lo` and below 4096, the addresses rise strictly, and no listed byte equals the reset
content. -/
def Memory.wfFrom (font : Font) : Nat → Memory → Bool
  | _, [] => true
  | lo, (a, b) :: m =>
    decide (lo ≤ a) && decide (a < Config.memSize) && decide (b ≠ Memory.initial font a) && Memory.wfFrom font (a + 1) m

/-- The canonical form: equal memories over one `FONT` are equal lists. -/
def Memory.wf (m : Memory) (font : Font) : Bool := Memory.wfFrom font 0 m

/-- `MemWrite` of consecutive bytes from `a` up, each address reduced on its own (R61, R70). -/
def Memory.writeBytes (m : Memory) (font : Font) (a : Nat) : List Byte → Memory
  | [] => m
  | b :: bs => Memory.writeBytes (m.write font a b) font (a + 1) bs

/-- `MemRead(a, 1)` (R7). -/
def State.readByte (s : State) (a : Nat) : Byte := s.mem.read s.font a

/-- `MemRead(a, 2)`, big-endian (R7, R62). -/
def State.readWord (s : State) (a : Nat) : Word := s.readByte a ++ s.readByte (a + 1)

/-- `MemWrite` of consecutive bytes (R7, R65). -/
def State.writeBytes (s : State) (a : Nat) (bs : List Byte) : State :=
  { s with mem := s.mem.writeBytes s.font a bs }

/-! ## Registers (10_state.md R23 to R28) -/

/-- `V[x]` (R23): no register is hardwired or banked. -/
def State.getV (s : State) (x : Reg) : Byte := s.v[x.toNat]'x.isLt

/-- `V[x] <- b` (R23). -/
def State.setV (s : State) (x : Reg) (b : Byte) : State :=
  { s with v := s.v.set x.toNat b x.isLt }

/-- The register that doubles as the flag (R24). -/
def vF : Reg := 0xF#4

/-- The result to `Vx`, then the flag to `VF`, so that the flag wins when `x = 15` (42_load_alu.md R150, D6). -/
def State.setVF (s : State) (x : Reg) (result flag : Byte) : State := (s.setV x result).setV vF flag

/-- `I <- w` (R25): all 16 bits are kept. -/
def State.setI (s : State) (w : Word) : State := { s with i := w }

/-- `PC <- w` (R26): all 16 bits are kept. -/
def State.setPC (s : State) (w : Word) : State := { s with pc := w }

/-- `PC <- (pc0 + 2) mod 65536` (40_step_engine.md R124). -/
def State.advance (s : State) : State := s.setPC (s.pc + 2)

/-- `pc0 + 4` if the condition holds, else `pc0 + 2` (R124). -/
def State.skipIf (s : State) (c : Bool) : State := s.setPC (if c then s.pc + 4 else s.pc + 2)

/-- `STACK[SP] <- w; SP <- SP + 1`, legal only when `SP < 16` (R28); none when the stack is full. -/
def State.push? (s : State) (w : Word) : Option State :=
  if h : s.sp.val < 16 then
    some { s with stack := s.stack.set s.sp.val w h, sp := ⟨s.sp.val + 1, Nat.succ_lt_succ h⟩ }
  else none

/-- `SP <- SP - 1; STACK[SP]`, legal only when `SP > 0` (R28); none when the stack is empty. The entry is not cleared
(R27). -/
def State.pop? (s : State) : Option (Word × State) :=
  if h : 0 < s.sp.val then
    have lt : s.sp.val - 1 < 16 := by have := s.sp.isLt; omega
    some (s.stack[s.sp.val - 1]'lt, { s with sp := ⟨s.sp.val - 1, by omega⟩ })
  else none

/-! ## Events, timers and the audio gate (R29, R30, R32, R35) -/

/-- `emit e` (00_scope.md R7). -/
def State.emit (s : State) (e : Event) : State := { s with events := s.events ++ [e] }

/-- `DT <- b` (R29). -/
def State.setDT (s : State) (b : Byte) : State := { s with dt := b }

/-- `SetST(b)`, through which every write of `ST` goes: the gate and its event follow a change between zero and nonzero
(R32, D18). -/
def State.setST (s : State) (b : Byte) : State :=
  if s.st = 0 ∧ b ≠ 0 then { s with st := b, tone := true }.emit (.setTone true)
  else if s.st ≠ 0 ∧ b = 0 then { s with st := b, tone := false }.emit (.setTone false)
  else { s with st := b }

/-- The numeric cause of a fatal condition (60_exceptions.md R227, D21). -/
def Fault.code : Fault → Nat
  | .pcPastEnd _ => 1
  | .stackOverflow _ => 2
  | .stackUnderflow _ => 3

/-- The numeric cause of an event (R227, D21): the unknown opcode is the one recoverable condition, and no other event is a
condition. -/
def Event.code : Event → Option Nat
  | .unknownOpcode _ _ => some 4
  | .present _ => none
  | .setTone _ => none
  | .waiting => none

/-- The value a fatal condition records, the unchanged `PC` (R221 to R223, R227). -/
def Fault.recorded : Fault → Word
  | .pcPastEnd pc => pc
  | .stackOverflow pc => pc
  | .stackUnderflow pc => pc

/-- The values an event of the table records: the opcode, and the `PC` it was fetched from (R226, R227). -/
def Event.recorded : Event → Option (Word × Word)
  | .unknownOpcode op pc => some (op, pc)
  | .present _ => none
  | .setTone _ => none
  | .waiting => none

/-- `raise cause`, the one way a step ends in an exception: the result is `Halt(cause)`, no state element changes, no event
is emitted, no handler is entered and nothing is there to return from (00_scope.md R7; 60_exceptions.md R224, R230, R232). -/
def raise (cause : Fault) : Host.Outcome State Fault Refusal := .fault cause

/-! ## The framebuffer (44_display.md R185, R186) -/

/-- `FB[r mod 32][c mod 64]`: coordinates wrap (R185). -/
def Framebuffer.pixel (fb : Framebuffer) (r c : Nat) : Bool :=
  (fb[r % 32]'(Nat.mod_lt _ (by decide))).getLsbD (c % 64)

/-- `FB[r mod 32][c mod 64] <- on`. -/
def Framebuffer.setPixel (fb : Framebuffer) (r c : Nat) (on : Bool) : Framebuffer :=
  let row := fb[r % 32]'(Nat.mod_lt _ (by decide))
  let bit := BitVec.twoPow 64 (c % 64)
  fb.set (r % 32) (if on then row ||| bit else row &&& ~~~bit) (Nat.mod_lt _ (by decide))

/-- The all-off grid of `ClearFB()` (R186). -/
def Framebuffer.clear : Framebuffer := Vector.replicate 32 0

/-- A framebuffer being drawn on, and whether a pixel has gone from on to off so far. -/
abbrev Canvas := Framebuffer × Bool

/-- The innermost body of `DrawSprite` (R186): the pixel takes `old ^ bit`, and a collision is an old 1 that becomes 0. -/
def drawBit (canvas : Canvas) (r c : Nat) (bit : Bool) : Canvas :=
  let old := canvas.1.pixel r c
  let new := old ^^ bit
  (canvas.1.setPixel r c new, canvas.2 || (old && !new))

/-- One sprite row at row `r` from column `x`: bit 7 of the byte is the leftmost pixel (R186, D9). -/
def drawRow (x r : Nat) (byte : Byte) (canvas : Canvas) : Canvas :=
  (List.range 8).foldl (fun cv c => drawBit cv r (x + c) (byte.getLsbD (7 - c))) canvas

/-- The rows of a sprite, top row first, from row `y` down (R186, R188). -/
def drawRows (x : Nat) : Nat → List Byte → Canvas → Canvas
  | _, [], canvas => canvas
  | y, byte :: rows, canvas => drawRows x (y + 1) rows (drawRow x y byte canvas)

/-- `DrawSprite(x, y, rows)`: the new grid and the collision flag (R186). -/
def drawSprite (fb : Framebuffer) (x y : Byte) (rows : List Byte) : Canvas :=
  drawRows x.toNat y.toNat rows (fb, false)

/-- `FB <- fb`. -/
def State.setFB (s : State) (fb : Framebuffer) : State := { s with fb := fb }

/-- `emit Present(FB)`: the grid at this moment (44_display.md R191). -/
def State.present (s : State) : State := s.emit (.present s.fb)

/-! ## The start of a step (40_step_engine.md R120 to R122) -/

/-- The halt check: `PC > 0x200 + PSIZE`, strict, unsigned, on the whole 16-bit `PC` (R121, D2). -/
def State.pastEnd (s : State) : Bool := decide (Config.progBase + s.psize < s.pc.toNat)

/-- The opcode at `PC`, two bytes big-endian, each address reduced on its own (R122, 20_memory.md R62, R70). -/
def State.fetchWord (s : State) : Word := s.readWord s.pc.toNat

/-- The host invokes `Step`: its inputs are sampled once and stay for the whole step (10_state.md R34), `rest` is what the
host does after it, the free values of this step are fresh, and its result is `Continue` unless it halts. -/
def State.beginStep (s : State) (inputs : Option StepInputs) (rest : List HostOp) : State :=
  { s with script := rest, inputs := inputs, draws := s.draws + 1, result := none }

end Sys2Proof.Machine
end

