-- ==== Sys2Proof/Machine/Flags.lean ====
section
/-! DEFINITION. The values written to `VF` as a flag (10_state.md R24, 42_load_alu.md R163): there is no status register, and
each flag is an 8-bit 0 or 1. -/

namespace Sys2Proof.Machine

/-- A condition as the byte 1 or 0. -/
def flagByte (c : Bool) : Byte := if c then 1 else 0

/-- The carry of an 8-bit addition: the exact sum exceeds 255 (R157, R163). -/
def carryFlag (a b : Byte) : Byte := flagByte (decide (255 < a.toNat + b.toNat))

/-- The not-borrow of an 8-bit subtraction: the minuend is at least the subtrahend (R158, R160, R163). -/
def notBorrowFlag (minuend subtrahend : Byte) : Byte :=
  flagByte (decide (subtrahend.toNat ≤ minuend.toNat))

/-- The bit a right shift by one drops, bit 0 (R159). -/
def droppedLowFlag (a : Byte) : Byte := flagByte (a.getLsbD 0)

/-- The bit a left shift by one drops, bit 7 (R161). -/
def droppedHighFlag (a : Byte) : Byte := flagByte (a.getLsbD 7)

/-- The collision flag of a sprite draw (44_display.md R189): 1 or 0, so a draw without collision clears `VF` (D10). -/
def collisionFlag (collision : Bool) : Byte := flagByte collision

end Sys2Proof.Machine
end

