-- ==== Sys2Proof/Machine/Operands.lean ====
section
/-! DEFINITION. The operand forms: immediates (30_encoding.md R93), exact arithmetic narrowed to a register (42_load_alu.md
R163), memory at `I` plus an offset (43_index_memory.md), and the inputs of a step (10_state.md R34). -/

namespace Sys2Proof.Machine

/-- `zext_16(nnn)` (R93). -/
def zextAddr (nnn : Addr) : Word := nnn.setWidth 16

/-- `zext_16(b)` of a register (R93). -/
def zextByte (b : Byte) : Word := b.setWidth 16

/-- `(a + b) mod 256` (R163). -/
def addBytes (a b : Byte) : Byte := BitVec.ofNat 8 (a.toNat + b.toNat)

/-- `(a - b) mod 256`, that is `a - b + 256` when `a < b` (R158, R163). -/
def subBytes (a b : Byte) : Byte := BitVec.ofNat 8 (a.toNat + 256 - b.toNat)

/-- `a >> 1`, bit 7 becomes 0 (R159). -/
def shiftRightByte (a : Byte) : Byte := BitVec.ofNat 8 (a.toNat / 2)

/-- `(a << 1) mod 256`, bit 0 becomes 0 (R161). -/
def shiftLeftByte (a : Byte) : Byte := BitVec.ofNat 8 (a.toNat * 2)

/-- `(a + b) mod 65536` (43_index_memory.md R171, 41_control_flow.md R138). -/
def addWords (a b : Word) : Word := BitVec.ofNat 16 (a.toNat + b.toNat)

/-- `Vx * 5`, the glyph address of a digit; the whole byte is multiplied (43_index_memory.md R172, D15). -/
def glyphAddress (b : Byte) : Word := BitVec.ofNat 16 (b.toNat * 5)

/-- The three decimal digits, hundreds first, one a byte (43_index_memory.md R173). -/
def bcdDigits (b : Byte) : List Byte :=
  [BitVec.ofNat 8 (b.toNat / 100), BitVec.ofNat 8 (b.toNat / 10 % 10), BitVec.ofNat 8 (b.toNat % 10)]

/-- The address `I + k`, not yet reduced: memory reduces each byte's address itself (20_memory.md R61). -/
def State.indexAddress (s : State) (k : Nat) : Nat := s.i.toNat + k

/-- `V[i]` for an index counted 0..15. -/
def State.getVAt (s : State) (k : Nat) : Byte := s.getV (BitVec.ofNat 4 k)

/-- `V[0], …, V[x]` (43_index_memory.md R174). -/
def State.regsUpTo (s : State) (x : Reg) : List Byte := (List.range (x.toNat + 1)).map s.getVAt

/-- The `n` bytes `MEM[I], …, MEM[I+n-1]` (44_display.md R188, 43_index_memory.md R175). -/
def State.bytesAtI (s : State) (n : Nat) : List Byte :=
  (List.range n).map fun k => s.readByte (s.indexAddress k)

/-- `V[k] <- b, V[k+1] <- …`, ascending (R175). -/
def State.loadRegs (s : State) : Nat → List Byte → State
  | _, [] => s
  | k, b :: bs => (s.setV (BitVec.ofNat 4 k) b).loadRegs (k + 1) bs

/-- `KEYS` of this step, a free value where the host's schedule does not give it (10_state.md R34). -/
def State.keysNow (s : State) : Vector Bool 16 :=
  match s.inputs with
  | some inp => inp.keys
  | none => Config.freeKeys s.draws

/-- `KEYDOWN` of this step (R34). -/
def State.keyDownNow (s : State) : Option (BitVec 4) :=
  match s.inputs with
  | some inp => inp.keyDown
  | none => Config.freeKeyDown s.draws

/-- `RND` of this step (R34, D13). -/
def State.rndNow (s : State) : Byte :=
  match s.inputs with
  | some inp => inp.rnd
  | none => Config.freeRnd s.draws

/-- `KEYS[k]` for a logical key (45_keypad_timers.md R200). -/
def State.keyLevel (s : State) (k : BitVec 4) : Bool := s.keysNow[k.toNat]'k.isLt

/-- Whether key `k` is pressed, `k` the whole byte `Vx`; above 15 the policy `KEY_OOR` decides (R201, D11). -/
def State.keyTest (s : State) (k : Byte) : Except Refusal Bool :=
  if k.toNat ≤ 15 then .ok (s.keyLevel (k.setWidth 4))
  else
    match Config.keyOor with
    | .refuse => .error (.keyIndexOutOfRange k)
    | .mask => .ok (s.keyLevel (k.setWidth 4))
    | .notPressed => .ok false

end Sys2Proof.Machine
end

