-- ==== Sys2Proof/Machine/Alu.lean ====
section
/-! DEFINITION. Register load, arithmetic, logic and random (42_load_alu.md). The operands are read first, the result is
written to `Vx`, and the flag to `VF` last (R150). -/

namespace Sys2Proof.Machine

/-- `6xkk` LD Vx, kk (R151). -/
def execLdImm (x : Reg) (kk : Byte) (s : State) : Host.Outcome State Fault Refusal :=
  .next (s.setV x kk).advance

/-- `7xkk` ADD Vx, kk (R152): the carry is discarded. -/
def execAddImm (x : Reg) (kk : Byte) (s : State) : Host.Outcome State Fault Refusal :=
  .next (s.setV x (addBytes (s.getV x) kk)).advance

/-- `8xy0` LD Vx, Vy (R153). -/
def execLdReg (x y : Reg) (s : State) : Host.Outcome State Fault Refusal :=
  .next (s.setV x (s.getV y)).advance

/-- `8xy1` OR Vx, Vy (R154): `VF` is not reset. -/
def execOrReg (x y : Reg) (s : State) : Host.Outcome State Fault Refusal :=
  .next (s.setV x (s.getV x ||| s.getV y)).advance

/-- `8xy2` AND Vx, Vy (R155): `VF` is not reset. -/
def execAndReg (x y : Reg) (s : State) : Host.Outcome State Fault Refusal :=
  .next (s.setV x (s.getV x &&& s.getV y)).advance

/-- `8xy3` XOR Vx, Vy (R156): `VF` is not reset. -/
def execXorReg (x y : Reg) (s : State) : Host.Outcome State Fault Refusal :=
  .next (s.setV x (s.getV x ^^^ s.getV y)).advance

/-- `8xy4` ADD Vx, Vy (R157). -/
def execAddReg (x y : Reg) (s : State) : Host.Outcome State Fault Refusal :=
  .next (s.setVF x (addBytes (s.getV x) (s.getV y)) (carryFlag (s.getV x) (s.getV y))).advance

/-- `8xy5` SUB Vx, Vy (R158). -/
def execSubReg (x y : Reg) (s : State) : Host.Outcome State Fault Refusal :=
  .next (s.setVF x (subBytes (s.getV x) (s.getV y)) (notBorrowFlag (s.getV x) (s.getV y))).advance

/-- `8xy6` SHR Vx (R159): in place, `Vy` is not read. -/
def execShr (x : Reg) (s : State) : Host.Outcome State Fault Refusal :=
  .next (s.setVF x (shiftRightByte (s.getV x)) (droppedLowFlag (s.getV x))).advance

/-- `8xy7` SUBN Vx, Vy (R160): `Vy - Vx` and its not-borrow (D7; entry 8). -/
def execSubn (x y : Reg) (s : State) : Host.Outcome State Fault Refusal :=
  .next (s.setVF x (subBytes (s.getV y) (s.getV x)) (notBorrowFlag (s.getV y) (s.getV x))).advance

/-- `8xyE` SHL Vx (R161): in place, `Vy` is not read. -/
def execShl (x : Reg) (s : State) : Host.Outcome State Fault Refusal :=
  .next (s.setVF x (shiftLeftByte (s.getV x)) (droppedHighFlag (s.getV x))).advance

/-- `Cxkk` RND Vx, kk (R162): `RND` is an input of the step (D13). -/
def execRnd (x : Reg) (kk : Byte) (s : State) : Host.Outcome State Fault Refusal :=
  .next (s.setV x (s.rndNow &&& kk)).advance

end Sys2Proof.Machine
end

