-- ==== Sys2Proof/Machine/Control.lean ====
section
/-! DEFINITION. The control-flow instructions (41_control_flow.md). `s.pc` at entry is `pc0`, the address of the instruction. -/

namespace Sys2Proof.Machine

/-- `00EE` RET (R135): the popped entry is the address of the call, and 2 is added to it (D5). -/
def execRet (s : State) : Host.Outcome State Fault Refusal :=
  match s.pop? with
  | none => raise (.stackUnderflow s.pc)
  | some (entry, t) => .next (t.setPC (entry + 2))

/-- `1nnn` JP nnn (R136). -/
def execJp (nnn : Addr) (s : State) : Host.Outcome State Fault Refusal := .next (s.setPC (zextAddr nnn))

/-- `2nnn` CALL nnn (R137): the entry pushed is `pc0` itself (D5). -/
def execCall (nnn : Addr) (s : State) : Host.Outcome State Fault Refusal :=
  match s.push? s.pc with
  | none => raise (.stackOverflow s.pc)
  | some t => .next (t.setPC (zextAddr nnn))

/-- `Bnnn` JP V0, nnn (R138): the sum is not reduced to 12 bits (D3). -/
def execJpV0 (nnn : Addr) (s : State) : Host.Outcome State Fault Refusal :=
  .next (s.setPC (addWords (zextAddr nnn) (zextByte (s.getV 0))))

/-- `3xkk` SE Vx, kk (R139). -/
def execSeImm (x : Reg) (kk : Byte) (s : State) : Host.Outcome State Fault Refusal :=
  .next (s.skipIf (s.getV x == kk))

/-- `4xkk` SNE Vx, kk (R140). -/
def execSneImm (x : Reg) (kk : Byte) (s : State) : Host.Outcome State Fault Refusal :=
  .next (s.skipIf (s.getV x != kk))

/-- `5xy0` SE Vx, Vy (R141); the low nibble is not examined (30_encoding.md R97, D8). -/
def execSeReg (x y : Reg) (s : State) : Host.Outcome State Fault Refusal :=
  .next (s.skipIf (s.getV x == s.getV y))

/-- `9xy0` SNE Vx, Vy (R142); the low nibble is not examined (30_encoding.md R97, D8). -/
def execSneReg (x y : Reg) (s : State) : Host.Outcome State Fault Refusal :=
  .next (s.skipIf (s.getV x != s.getV y))

/-- A word that selects no instruction (40_step_engine.md R126): reported with the address it was fetched from (D34),
skipped, and nothing else. -/
def execUnknown (op : Word) (s : State) : Host.Outcome State Fault Refusal :=
  .next (s.emit (.unknownOpcode op s.pc)).advance

end Sys2Proof.Machine
end

