-- ==== Sys2Proof/Machine/Display.lean ====
section
/-! DEFINITION. Clear and sprite drawing (44_display.md). -/

namespace Sys2Proof.Machine

/-- `00E0` CLS (R187): always presents. -/
def execCls (s : State) : Host.Outcome State Fault Refusal :=
  .next (s.setFB Framebuffer.clear).present.advance

/-- The state after a sprite draw that gave `canvas`: the grid, `VF`, and a `Present` of the new grid exactly on a collision
(R189, R191). -/
def State.afterDraw (s : State) (canvas : Canvas) : State :=
  let t := (s.setFB canvas.1).setV vF (collisionFlag canvas.2)
  if canvas.2 then t.present else t

/-- `Dxyn` DRW Vx, Vy, n (R189): the coordinates are read before `VF` is written. -/
def execDrw (x y : Reg) (n : Nibble) (s : State) : Host.Outcome State Fault Refusal :=
  .next (s.afterDraw (drawSprite s.fb (s.getV x) (s.getV y) (s.bytesAtI n.toNat))).advance

end Sys2Proof.Machine
end

