-- ==== Sys2Proof/Machine/IndexMemory.lean ====
section
/-! DEFINITION. Index register and memory instructions (43_index_memory.md). No address is out of range and none changes `I`
as a by-product of an access. -/

namespace Sys2Proof.Machine

/-- `Annn` LD I, nnn (R170). -/
def execLdI (nnn : Addr) (s : State) : Host.Outcome State Fault Refusal :=
  .next (s.setI (zextAddr nnn)).advance

/-- `Fx1E` ADD I, Vx (R171): kept to 16 bits, no flag (D4). -/
def execAddI (x : Reg) (s : State) : Host.Outcome State Fault Refusal :=
  .next (s.setI (addWords s.i (zextByte (s.getV x)))).advance

/-- `Fx29` LD F, Vx (R172). -/
def execLdF (x : Reg) (s : State) : Host.Outcome State Fault Refusal :=
  .next (s.setI (glyphAddress (s.getV x))).advance

/-- `Fx33` LD B, Vx (R173). -/
def execLdB (x : Reg) (s : State) : Host.Outcome State Fault Refusal :=
  .next (s.writeBytes (s.indexAddress 0) (bcdDigits (s.getV x))).advance

/-- `Fx55` LD [I], Vx (R174): `V0..Vx`, inclusive, ascending; `I` is not changed (D16). -/
def execStRegs (x : Reg) (s : State) : Host.Outcome State Fault Refusal :=
  .next (s.writeBytes (s.indexAddress 0) (s.regsUpTo x)).advance

/-- `Fx65` LD Vx, [I] (R175): `V0..Vx`, inclusive, ascending; `I` is not changed (D16). -/
def execLdRegs (x : Reg) (s : State) : Host.Outcome State Fault Refusal :=
  .next (s.loadRegs 0 (s.bytesAtI (x.toNat + 1))).advance

end Sys2Proof.Machine
end

