-- ==== Sys2Proof/Machine/KeypadTimers.lean ====
section
/-! DEFINITION. Keypad and timer instructions (45_keypad_timers.md). -/

namespace Sys2Proof.Machine

/-- `Ex9E` SKP Vx (R201): the level of key `Vx`, the whole byte. -/
def execSkp (x : Reg) (s : State) : Host.Outcome State Fault Refusal :=
  match s.keyTest (s.getV x) with
  | .ok pressed => .next (s.skipIf pressed)
  | .error r => .refused r

/-- `ExA1` SKNP Vx (R202). -/
def execSknp (x : Reg) (s : State) : Host.Outcome State Fault Refusal :=
  match s.keyTest (s.getV x) with
  | .ok pressed => .next (s.skipIf (!pressed))
  | .error r => .refused r

/-- `Fx0A` LD Vx, K (R203): a key-down event resolves it; without one the step stutters, reports `Waiting` and leaves `PC`
at the instruction (D12). -/
def execLdVxK (x : Reg) (s : State) : Host.Outcome State Fault Refusal :=
  match s.keyDownNow with
  | some k => .next (s.setV x (k.setWidth 8)).advance
  | none => .next (s.emit .waiting)

/-- `Fx07` LD Vx, DT (R204). -/
def execLdVxDT (x : Reg) (s : State) : Host.Outcome State Fault Refusal :=
  .next (s.setV x s.dt).advance

/-- `Fx15` LD DT, Vx (R205). -/
def execLdDTVx (x : Reg) (s : State) : Host.Outcome State Fault Refusal :=
  .next (s.setDT (s.getV x)).advance

/-- `Fx18` LD ST, Vx (R206): through `SetST`, so the audio gate follows. -/
def execLdSTVx (x : Reg) (s : State) : Host.Outcome State Fault Refusal :=
  .next (s.setST (s.getV x)).advance

end Sys2Proof.Machine
end

