-- ==== Sys2Proof/WellFormed.lean ====
section
/-! DEFINITION. Which terms of `Instr` stand for a word. Every register and immediate field is in range by its type
(30_encoding.md R93); the one check is that the word of an `unknown` lies in one of the four sets of R96. -/

namespace Sys2Proof

/-- The second opcodes of family 8 that select an instruction (R94). -/
def family8Codes : List (BitVec 4) := [0x0#4, 0x1#4, 0x2#4, 0x3#4, 0x4#4, 0x5#4, 0x6#4, 0x7#4, 0xE#4]

/-- The second opcodes of family E that select an instruction (R94). -/
def familyECodes : List Byte := [0x9E#8, 0xA1#8]

/-- The second opcodes of family F that select an instruction (R94). -/
def familyFCodes : List Byte := [0x07#8, 0x0A#8, 0x15#8, 0x18#8, 0x1E#8, 0x29#8, 0x33#8, 0x55#8, 0x65#8]

/-- The four sets of words that select no instruction (R96), in the order of its table. -/
def isUnknownWord (op : Word) : Bool :=
  let t : BitVec 4 := op.extractLsb' 12 4
  let n : BitVec 4 := op.extractLsb' 0 4
  let kk : Byte := op.extractLsb' 0 8
  (t == 0x0#4 && op != 0x00E0#16 && op != 0x00EE#16)
    || (t == 0x8#4 && !family8Codes.contains n)
    || (t == 0xE#4 && !familyECodes.contains kk)
    || (t == 0xF#4 && !familyFCodes.contains kk)

/-- An instruction is well formed when some word encodes it. -/
def Instr.wf : Instr → Bool
  | .unknown op => isUnknownWord op
  | .cls | .ret | .jp _ | .call _ | .ldI _ | .jpV0 _ => true
  | .seImm _ _ | .sneImm _ _ | .ldImm _ _ | .addImm _ _ | .rnd _ _ => true
  | .seReg _ _ _ | .sneReg _ _ _ | .drw _ _ _ => true
  | .ldReg _ _ | .orReg _ _ | .andReg _ _ | .xorReg _ _ | .addReg _ _ | .subReg _ _ => true
  | .shr _ _ | .subn _ _ | .shl _ _ => true
  | .skp _ | .sknp _ | .ldVxDT _ | .ldVxK _ | .ldDTVx _ | .ldSTVx _ => true
  | .addI _ | .ldF _ | .ldB _ | .stRegs _ | .ldRegs _ => true

end Sys2Proof
end

