-- ==== Sys2Proof/Decode.lean ====
section
/-! DEFINITION. The decoder, total on 16-bit words (30_encoding.md R94) and on byte lists, and after it the encoder, written
from the formats of R92 and the rows of R95. -/

namespace Sys2Proof

/-- The top nibble `t = op[15:12]` (R91). -/
def fieldT (op : Word) : BitVec 4 := op.extractLsb' 12 4

/-- The register field `x = op[11:8]` (R91). -/
def fieldX (op : Word) : Reg := op.extractLsb' 8 4

/-- The register field `y = op[7:4]` (R91). -/
def fieldY (op : Word) : Reg := op.extractLsb' 4 4

/-- The field `n = op[3:0]` (R91). -/
def fieldN (op : Word) : Nibble := op.extractLsb' 0 4

/-- The field `kk = op[7:0]` (R91). -/
def fieldKK (op : Word) : Byte := op.extractLsb' 0 8

/-- The field `nnn = op[11:0]` (R91). -/
def fieldNNN (op : Word) : Addr := op.extractLsb' 0 12

/-- Family 8, dispatched on `n` (R94). -/
def decode8 (op : Word) : Instr :=
  match fieldN op with
  | 0x0#4 => .ldReg (fieldX op) (fieldY op)
  | 0x1#4 => .orReg (fieldX op) (fieldY op)
  | 0x2#4 => .andReg (fieldX op) (fieldY op)
  | 0x3#4 => .xorReg (fieldX op) (fieldY op)
  | 0x4#4 => .addReg (fieldX op) (fieldY op)
  | 0x5#4 => .subReg (fieldX op) (fieldY op)
  | 0x6#4 => .shr (fieldX op) (fieldY op)
  | 0x7#4 => .subn (fieldX op) (fieldY op)
  | 0xE#4 => .shl (fieldX op) (fieldY op)
  | _ => .unknown op

/-- Family E, dispatched on `kk` (R94). -/
def decodeE (op : Word) : Instr :=
  match fieldKK op with
  | 0x9E#8 => .skp (fieldX op)
  | 0xA1#8 => .sknp (fieldX op)
  | _ => .unknown op

/-- Family F, dispatched on `kk` (R94). -/
def decodeF (op : Word) : Instr :=
  match fieldKK op with
  | 0x07#8 => .ldVxDT (fieldX op)
  | 0x0A#8 => .ldVxK (fieldX op)
  | 0x15#8 => .ldDTVx (fieldX op)
  | 0x18#8 => .ldSTVx (fieldX op)
  | 0x1E#8 => .addI (fieldX op)
  | 0x29#8 => .ldF (fieldX op)
  | 0x33#8 => .ldB (fieldX op)
  | 0x55#8 => .stRegs (fieldX op)
  | 0x65#8 => .ldRegs (fieldX op)
  | _ => .unknown op

/-- Family 0: the two exact matches, every other `0nnn` unknown (R94, R96). -/
def decode0 (op : Word) : Instr :=
  if op = 0x00E0#16 then .cls
  else if op = 0x00EE#16 then .ret
  else .unknown op

/-- `Decode(op)`, total on 16-bit words (R94). The exact matches of R94 both have top nibble 0, so they are looked for in
that family. A word that selects no instruction decodes to `unknown`, which carries the word. -/
def decode (op : Word) : Instr :=
  match fieldT op with
  | 0x0#4 => decode0 op
  | 0x1#4 => .jp (fieldNNN op)
  | 0x2#4 => .call (fieldNNN op)
  | 0x3#4 => .seImm (fieldX op) (fieldKK op)
  | 0x4#4 => .sneImm (fieldX op) (fieldKK op)
  | 0x5#4 => .seReg (fieldX op) (fieldY op) (fieldN op)
  | 0x6#4 => .ldImm (fieldX op) (fieldKK op)
  | 0x7#4 => .addImm (fieldX op) (fieldKK op)
  | 0x8#4 => decode8 op
  | 0x9#4 => .sneReg (fieldX op) (fieldY op) (fieldN op)
  | 0xA#4 => .ldI (fieldNNN op)
  | 0xB#4 => .jpV0 (fieldNNN op)
  | 0xC#4 => .rnd (fieldX op) (fieldKK op)
  | 0xD#4 => .drw (fieldX op) (fieldY op) (fieldN op)
  | 0xE#4 => decodeE op
  | _ => decodeF op

/-- Two bytes as an opcode: the byte at the lower address is the most significant (20_memory.md R62). -/
def wordOfBytes (hi lo : Byte) : Word := hi ++ lo

/-- Why a byte list holds no instruction. -/
inductive DecodeError where
  /-- Fewer than the two bytes of an instruction are left (R90); `have_` says how many. Raised by `decodeBytes` only: the
  fetch of a step always has two bytes (20_memory.md R70). Safe. -/
  | truncated (have_ : Nat)
  deriving DecidableEq, Repr

/-- The decoder on a byte list: the instruction of the first two bytes and the bytes after it (R90, R62). -/
def decodeBytes : List Byte → Except DecodeError (Instr × List Byte)
  | [] => .error (.truncated 0)
  | [_] => .error (.truncated 1)
  | hi :: lo :: rest => .ok (decode (wordOfBytes hi lo), rest)

/-- An opcode as the hardware stores it, the high byte at the lower address (R62). -/
def bytesOfWord (w : Word) : List Byte := [w.extractLsb' 8 8, w.extractLsb' 0 8]

/-- The instruction the decoder reads from an opcode-table word: `w` numbered from bit 0 of the one 16-bit word, every bit
from `nbits` up taken as 0, laid out as stored and decoded. It refuses nothing, since every word decodes (R94). -/
def decodeTableWord (nbits w : Nat) : Option Instr :=
  match decodeBytes (bytesOfWord (BitVec.ofNat 16 (w % 2 ^ nbits))) with
  | .ok (i, _) => some i
  | .error _ => none

/-! ## The encoder -/

/-- Format `NNN` (R92). -/
def formatNNN (t : BitVec 4) (nnn : Addr) : Word := t ++ nnn

/-- Format `XKK` (R92). -/
def formatXKK (t : BitVec 4) (x : Reg) (kk : Byte) : Word := t ++ (x ++ kk)

/-- Formats `XY` and `XYN` (R92); the last nibble is the second opcode, the row count, or not examined. -/
def formatXYN (t : BitVec 4) (x y : Reg) (n : Nibble) : Word := t ++ (x ++ (y ++ n))

/-- The word of an instruction, from the rows of R95. -/
def encode : Instr → Word
  | .cls => 0x00E0#16
  | .ret => 0x00EE#16
  | .jp nnn => formatNNN 0x1#4 nnn
  | .call nnn => formatNNN 0x2#4 nnn
  | .seImm x kk => formatXKK 0x3#4 x kk
  | .sneImm x kk => formatXKK 0x4#4 x kk
  | .seReg x y n => formatXYN 0x5#4 x y n
  | .ldImm x kk => formatXKK 0x6#4 x kk
  | .addImm x kk => formatXKK 0x7#4 x kk
  | .ldReg x y => formatXYN 0x8#4 x y 0x0#4
  | .orReg x y => formatXYN 0x8#4 x y 0x1#4
  | .andReg x y => formatXYN 0x8#4 x y 0x2#4
  | .xorReg x y => formatXYN 0x8#4 x y 0x3#4
  | .addReg x y => formatXYN 0x8#4 x y 0x4#4
  | .subReg x y => formatXYN 0x8#4 x y 0x5#4
  | .shr x y => formatXYN 0x8#4 x y 0x6#4
  | .subn x y => formatXYN 0x8#4 x y 0x7#4
  | .shl x y => formatXYN 0x8#4 x y 0xE#4
  | .sneReg x y n => formatXYN 0x9#4 x y n
  | .ldI nnn => formatNNN 0xA#4 nnn
  | .jpV0 nnn => formatNNN 0xB#4 nnn
  | .rnd x kk => formatXKK 0xC#4 x kk
  | .drw x y n => formatXYN 0xD#4 x y n
  | .skp x => formatXKK 0xE#4 x 0x9E#8
  | .sknp x => formatXKK 0xE#4 x 0xA1#8
  | .ldVxDT x => formatXKK 0xF#4 x 0x07#8
  | .ldVxK x => formatXKK 0xF#4 x 0x0A#8
  | .ldDTVx x => formatXKK 0xF#4 x 0x15#8
  | .ldSTVx x => formatXKK 0xF#4 x 0x18#8
  | .addI x => formatXKK 0xF#4 x 0x1E#8
  | .ldF x => formatXKK 0xF#4 x 0x29#8
  | .ldB x => formatXKK 0xF#4 x 0x33#8
  | .stRegs x => formatXKK 0xF#4 x 0x55#8
  | .ldRegs x => formatXKK 0xF#4 x 0x65#8
  | .unknown op => op

/-- The bytes of an instruction in memory order (R62). -/
def encodeBytes (i : Instr) : List Byte := bytesOfWord (encode i)

/-! ## The opcode map -/

/-- The `mask` and `match` of each instruction's row of the opcode map (R95); none for a word of no row (R96). -/
def Instr.row : Instr → Option (Word × Word)
  | .cls => some (0xFFFF, 0x00E0)
  | .ret => some (0xFFFF, 0x00EE)
  | .jp _ => some (0xF000, 0x1000)
  | .call _ => some (0xF000, 0x2000)
  | .seImm _ _ => some (0xF000, 0x3000)
  | .sneImm _ _ => some (0xF000, 0x4000)
  | .seReg _ _ _ => some (0xF000, 0x5000)
  | .ldImm _ _ => some (0xF000, 0x6000)
  | .addImm _ _ => some (0xF000, 0x7000)
  | .ldReg _ _ => some (0xF00F, 0x8000)
  | .orReg _ _ => some (0xF00F, 0x8001)
  | .andReg _ _ => some (0xF00F, 0x8002)
  | .xorReg _ _ => some (0xF00F, 0x8003)
  | .addReg _ _ => some (0xF00F, 0x8004)
  | .subReg _ _ => some (0xF00F, 0x8005)
  | .shr _ _ => some (0xF00F, 0x8006)
  | .subn _ _ => some (0xF00F, 0x8007)
  | .shl _ _ => some (0xF00F, 0x800E)
  | .sneReg _ _ _ => some (0xF000, 0x9000)
  | .ldI _ => some (0xF000, 0xA000)
  | .jpV0 _ => some (0xF000, 0xB000)
  | .rnd _ _ => some (0xF000, 0xC000)
  | .drw _ _ _ => some (0xF000, 0xD000)
  | .skp _ => some (0xF0FF, 0xE09E)
  | .sknp _ => some (0xF0FF, 0xE0A1)
  | .ldVxDT _ => some (0xF0FF, 0xF007)
  | .ldVxK _ => some (0xF0FF, 0xF00A)
  | .ldDTVx _ => some (0xF0FF, 0xF015)
  | .ldSTVx _ => some (0xF0FF, 0xF018)
  | .addI _ => some (0xF0FF, 0xF01E)
  | .ldF _ => some (0xF0FF, 0xF029)
  | .ldB _ => some (0xF0FF, 0xF033)
  | .stRegs _ => some (0xF0FF, 0xF055)
  | .ldRegs _ => some (0xF0FF, 0xF065)
  | .unknown _ => none

/-- The 34 rows of the opcode map as (`mask`, `match`), in its order (R95, R101): the first 18. -/
def opcodeMapLow : List (Word × Word) :=
  [(0xFFFF, 0x00E0), (0xFFFF, 0x00EE), (0xF000, 0x1000), (0xF000, 0x2000), (0xF000, 0x3000),
   (0xF000, 0x4000), (0xF000, 0x5000), (0xF000, 0x6000), (0xF000, 0x7000), (0xF00F, 0x8000),
   (0xF00F, 0x8001), (0xF00F, 0x8002), (0xF00F, 0x8003), (0xF00F, 0x8004), (0xF00F, 0x8005),
   (0xF00F, 0x8006), (0xF00F, 0x8007), (0xF00F, 0x800E)]

/-- The rest of the opcode map. -/
def opcodeMapHigh : List (Word × Word) :=
  [(0xF000, 0x9000), (0xF000, 0xA000), (0xF000, 0xB000), (0xF000, 0xC000), (0xF000, 0xD000),
   (0xF0FF, 0xE09E), (0xF0FF, 0xE0A1), (0xF0FF, 0xF007), (0xF0FF, 0xF00A), (0xF0FF, 0xF015),
   (0xF0FF, 0xF018), (0xF0FF, 0xF01E), (0xF0FF, 0xF029), (0xF0FF, 0xF033), (0xF0FF, 0xF055),
   (0xF0FF, 0xF065)]

/-- The opcode map: `op` selects the row (`mask`, `match`) when `op & mask = match` (R95). -/
def opcodeMap : List (Word × Word) := opcodeMapLow ++ opcodeMapHigh

end Sys2Proof
end

