-- ==== Sys2Proof/Machine/HostOps.lean ====
section
/-! DEFINITION. The host's operations other than `Step`: `Construct`, `LoadProgram`, `RunEntry` (70_reset_and_hazards.md) and
`TimerTick` (45_keypad_timers.md), and its stop. Each leaves the host's own bookkeeping (`script`, `inputs`, `draws`, `result`)
alone. And how a `Step` returns to the host. -/

namespace Sys2Proof.Machine

/-- `Construct()` (R250): every element of the block as after power-on, with the machine's own `FONT`; no event is emitted
(D18, D19). What was emitted and returned before stays in the record of the outside world (entry 29). -/
def State.construct (s : State) : State :=
  { State.reset with
    font := s.font, events := s.events, script := s.script, inputs := s.inputs, draws := s.draws, result := s.result }

/-- Whether the next `Step` would return `Halt`, which is what "the run has ended" means (60_exceptions.md R225). None of the
three fatal conditions reads an input. -/
def State.ended (s : State) : Bool :=
  s.pastEnd ||
    match decode s.fetchWord with
    | .call _ => s.sp.val == 16
    | .ret => s.sp.val == 0
    | _ => false

/-- A run is in progress (R252): it was entered, it has not ended, and since it was entered the host has neither stopped it nor
loaded a program, which it may do until the next `RunEntry`. -/
def State.inRun (s : State) : Bool := s.running && !s.ended

/-- `LoadProgram(bytes)` (R251): the image to 0x200 and up and its length to `PSIZE`, nothing else of the block; refused when
it is too large or a run is in progress (R252, D25). After it no run is in progress until the next `RunEntry` (R252). -/
def loadProgram (bytes : List Byte) (s : State) : Host.Outcome State Fault Refusal :=
  if Config.maxProg < bytes.length then .refused (.programTooLarge bytes.length)
  else if s.inRun then .refused .loadDuringRun
  else .next { s.writeBytes Config.progBase bytes with psize := bytes.length, running := false }

/-- `RunEntry()` (R253): in the order of its lines, so a tone still on is switched off before the cleared grid is presented.
`V`, `MEM`, `STACK` and `PSIZE` keep their values (D24). -/
def State.runEntry (s : State) : State :=
  let t := { s with pc := BitVec.ofNat 16 Config.progBase, sp := 0, dt := 0, running := true }
  (((t.setST 0).setI 0).setFB Framebuffer.clear).present

/-- One count down, stopping at 0 (R207, R208). -/
def countDown (b : Byte) : Byte := if b = 0 then 0 else b - 1

/-- `TimerTick()` (R208): `DT` and `ST` count down, the audio gate follows `ST`, nothing else changes. -/
def State.timerTick (s : State) : State :=
  let t := s.setDT (countDown s.dt)
  if t.st = 0 then t else t.setST (t.st - 1)

/-- How a `Step` that began in `s` returns to the host (R120, R35). `Continue` is its next state. After `Halt` the state is the
one the step began in, with the result noted, and the host goes on with what its schedule still holds (60_exceptions.md
R224, R225, R232); where that is nothing, the machine stops with the fault (entry 30). -/
def State.returnFromStep (s : State) (executed : Host.Outcome State Fault Refusal) : Host.Outcome State Fault Refusal :=
  match executed with
  | .next t => .next t
  | .refused r => .refused r
  | .fault cause =>
    match s.script with
    | [] => .fault cause
    | _ :: _ => .next { s with result := some cause }

/-- The host stops the run between two steps (R256): no element of the block changes. -/
def State.stop (s : State) : State := { s with running := false }

end Sys2Proof.Machine
end

