-- ==== Sys2Proof/Machine/Step.lean ====
section
/-! DEFINITION. One step of the machine: the host's next operation (00_scope.md R8), which is a `Step` of the core unless the
schedule says otherwise (40_step_engine.md R120). -/

namespace Sys2Proof.Machine

/-- The body of `Step` once its inputs are sampled (R120): the halt check before the fetch (R229), then the decoded
instruction, an unknown word among them. -/
def performStep (s : State) : Host.Outcome State Fault Refusal :=
  if s.pastEnd then raise (.pcPastEnd s.pc) else exec (decode s.fetchWord) s

/-- `Step` as the host invokes it, `s` with its inputs sampled: what it executes, and how it returns. -/
def invokeStep (s : State) : Host.Outcome State Fault Refusal := s.returnFromStep (performStep s)

/-- The next operation of the host's schedule; where the schedule says nothing more, a `Step` of whose inputs nothing is
known (entries 1 and 2). -/
def step (s : State) : Host.Outcome State Fault Refusal :=
  match s.script with
  | [] => invokeStep (s.beginStep none [])
  | .step inputs :: rest => invokeStep (s.beginStep inputs rest)
  | .timerTick :: rest => .next (State.timerTick { s with script := rest })
  | .runEntry :: rest => .next (State.runEntry { s with script := rest })
  | .loadProgram bytes :: rest => loadProgram bytes { s with script := rest }
  | .construct :: rest => .next (State.construct { s with script := rest })
  | .stop :: rest => .next (State.stop { s with script := rest })

/-- The schedule with a `Step` as its next operation: as it is where that is so already, or with one put before it. -/
def stepNext (script : List HostOp) : List HostOp :=
  match script with
  | [] => []
  | .step inputs :: rest => .step inputs :: rest
  | .timerTick :: rest => .step none :: .timerTick :: rest
  | .runEntry :: rest => .step none :: .runEntry :: rest
  | .loadProgram bytes :: rest => .step none :: .loadProgram bytes :: rest
  | .construct :: rest => .step none :: .construct :: rest
  | .stop :: rest => .step none :: .stop :: rest

/-- `s` with the opcode-table word `w` stored where the next `Step` fetches, and a `Step` next. The fetch is at `PC`, unless
`PC` is past the end, where a `Step` fetches nothing: then `PC` is moved to 0x200, which never is (entry 12). -/
def State.withFetchWord (s : State) (nbits w : Nat) : State :=
  let pc : Word := if s.pastEnd then BitVec.ofNat 16 Config.progBase else s.pc
  { s.writeBytes pc.toNat (bytesOfWord (BitVec.ofNat 16 (w % 2 ^ nbits))) with
    pc := pc, script := stepNext s.script }

end Sys2Proof.Machine
end

