-- ==== Sys2Proof/Safety.lean ====
section
/-! DEFINITION. The terms claims about runs are made in: the invariants of the state, the end of a run, and a safe run. -/

namespace Sys2Proof.Machine

/-- The invariants of 10_state.md R38 that the types do not already say (`SP <= 16` and every width are types), and the
canonical form of memory. -/
def State.Inv (s : State) : Prop :=
  s.mem.wf s.font = true ∧ (s.tone = true ↔ s.st ≠ 0) ∧ s.psize ≤ Config.maxProg

/-- The bound on `PC` and on the live stack entries under which no arithmetic on `PC` wraps (40_step_engine.md R125). -/
def State.PcBounded (s : State) : Prop :=
  s.psize ≤ Config.maxProg ∧ s.pc.toNat ≤ 0x10FE ∧
    ∀ (k : Nat) (h : k < 16), k < s.sp.val → (s.stack[k]'h).toNat ≤ 0x1000

/-- A `Step` from this state, whatever its inputs, returns `Halt(cause)` (60_exceptions.md R220, R225). -/
def HaltsWith (s : State) (cause : Fault) : Prop :=
  ∀ inputs rest, performStep (s.beginStep inputs rest) = .fault cause

/-- A safe run of `n` steps: none of them is refused (93_implementation_defined.md, what `refuse` means). A `Halt` is a
defined end of a run and is safe. -/
def SafeRun (n : Nat) (s : State) : Prop :=
  ∀ k ≤ n, ∀ r, Sys2Proof.core.run k s ≠ .refused r

end Sys2Proof.Machine
end

