-- ==== Sys2Proof/Certificates/Slice0/Obligations.lean ====
section
/-! DEFINITION. The statements for the provers, and the terms they are made in: what a frame leaves unchanged, the write sets of
10_state.md R41, where `PC` goes (40_step_engine.md R124), and where a sprite's bits fall (44_display.md R186). -/

namespace Sys2Proof.Machine

/-! ## Frames -/

/-- The parts a state is made of, `PC` apart, which every statement treats by itself. -/
inductive Part where
  | regs      -- `V[0..15]`
  | index     -- `I`
  | memory    -- `MEM`
  | stack     -- `STACK` and `SP`
  | delay     -- `DT`
  | sound     -- `ST` and `TONE`
  | screen    -- `FB`
  | events    -- the events emitted
  | program   -- `PSIZE`
  | font      -- the parameter `FONT`
  | schedule  -- what the host does next
  | sampling  -- the inputs of the step and the counter of the free values
  | running   -- whether a run is on
  | result    -- the result of the last `Step`
  deriving DecidableEq, Repr

/-- The part is the same in `t` as in `s`; memory is compared by reading every byte. -/
def Part.Same (s t : State) : Part → Prop
  | .regs => ∀ r, t.getV r = s.getV r
  | .index => t.i = s.i
  | .memory => ∀ a, t.readByte a = s.readByte a
  | .stack => t.stack = s.stack ∧ t.sp = s.sp
  | .delay => t.dt = s.dt
  | .sound => t.st = s.st ∧ t.tone = s.tone
  | .screen => t.fb = s.fb
  | .events => t.events = s.events
  | .program => t.psize = s.psize
  | .font => t.font = s.font
  | .schedule => t.script = s.script
  | .sampling => t.inputs = s.inputs ∧ t.draws = s.draws
  | .running => t.running = s.running
  | .result => t.result = s.result

/-- Every part but the ones listed is the same. -/
def FrameBut (touched : List Part) (s t : State) : Prop := ∀ p, p ∉ touched → p.Same s t

/-- Every register but the ones listed is the same. -/
def RegsBut (touched : List Reg) (s t : State) : Prop := ∀ r, r ∉ touched → t.getV r = s.getV r

/-- `stepped` is what a `Step` that began in `s` and executed `executed` returns (R120): the next state or the refusal as they
are; after a halt the state it began in with the result noted while the host has something left to do, and the fault where it
has not (entry 30). -/
def ReturnsFromStep (s : State) (executed stepped : Host.Outcome State Fault Refusal) : Prop :=
  (∀ t, executed = .next t → stepped = .next t) ∧ (∀ r, executed = .refused r → stepped = .refused r) ∧
  (∀ f, executed = .fault f → s.script = [] → stepped = .fault f) ∧
  (∀ f, executed = .fault f → s.script ≠ [] → stepped = .next { s with result := some f })

/-- What a taken or untaken skip leaves of `PC`, and a frame that touches nothing else (R124). -/
def Skips (i : Instr) (s : State) (taken : Prop) : Prop :=
  ∃ t, exec i s = .next t ∧ (taken → t.pc = s.pc + 4) ∧ (¬taken → t.pc = s.pc + 2) ∧ FrameBut [] s t

/-- `n` timer ticks, one after another. -/
def ticked : Nat → State → State
  | 0, s => s
  | n + 1, s => (ticked n s).timerTick

/-! ## Write sets (10_state.md R41) -/

/-- The parts an instruction may write (R41), `PC` left out. -/
def writeSet : Instr → List Part
  | .cls => [.screen, .events]
  | .ret | .call _ => [.stack]
  | .jp _ | .jpV0 _ => []
  | .seImm _ _ | .sneImm _ _ | .seReg _ _ _ | .sneReg _ _ _ | .skp _ | .sknp _ => []
  | .ldImm _ _ | .addImm _ _ | .ldReg _ _ | .orReg _ _ | .andReg _ _ | .xorReg _ _ => [.regs]
  | .addReg _ _ | .subReg _ _ | .shr _ _ | .subn _ _ | .shl _ _ => [.regs]
  | .rnd _ _ | .ldVxDT _ | .ldRegs _ => [.regs]
  | .ldI _ | .addI _ | .ldF _ => [.index]
  | .drw _ _ _ => [.screen, .regs, .events]
  | .ldVxK _ => [.regs, .events]
  | .ldDTVx _ => [.delay]
  | .ldSTVx _ => [.sound, .events]
  | .ldB _ | .stRegs _ => [.memory]
  | .unknown _ => [.events]

/-- The registers an instruction may write (R41). -/
def mayWriteReg : Instr → Reg → Prop
  | .ldImm x _, r | .addImm x _, r | .ldReg x _, r | .orReg x _, r | .andReg x _, r | .xorReg x _, r => r = x
  | .rnd x _, r | .ldVxDT x, r | .ldVxK x, r => r = x
  | .addReg x _, r | .subReg x _, r | .shr x _, r | .subn x _, r | .shl x _, r => r = x ∨ r = 0xF
  | .drw _ _ _, r => r = 0xF
  | .ldRegs x, r => r.toNat ≤ x.toNat
  | .cls, _ | .ret, _ | .jp _, _ | .call _, _ | .seImm _ _, _ | .sneImm _ _, _ | .seReg _ _ _, _ => False
  | .sneReg _ _ _, _ | .ldI _, _ | .jpV0 _, _ | .skp _, _ | .sknp _, _ | .ldDTVx _, _ | .ldSTVx _, _ => False
  | .addI _, _ | .ldF _, _ | .ldB _, _ | .stRegs _, _ | .unknown _, _ => False

/-- The memory addresses an instruction may write, before reduction (R41, 20_memory.md R65). -/
def mayWriteByte : Instr → State → Nat → Prop
  | .ldB _, s, a => ∃ k ≤ 2, a % 4096 = (s.i.toNat + k) % 4096
  | .stRegs x, s, a => ∃ k ≤ x.toNat, a % 4096 = (s.i.toNat + k) % 4096
  | _, _, _ => False

/-! ## Where `PC` goes (40_step_engine.md R124) -/

/-- `PC` after a step that executed the instruction in `s` and went on, row by row of R124. -/
def PcAfter (s : State) (pc : Word) : Instr → Prop
  | .jp nnn | .call nnn => pc.toNat = nnn.toNat
  | .jpV0 nnn => pc.toNat = nnn.toNat + (s.getV 0).toNat
  | .ret => ∀ h : s.sp.val - 1 < 16, pc = s.stack[s.sp.val - 1] + 2
  | .seImm x kk => (s.getV x = kk → pc = s.pc + 4) ∧ (s.getV x ≠ kk → pc = s.pc + 2)
  | .sneImm x kk => (s.getV x ≠ kk → pc = s.pc + 4) ∧ (s.getV x = kk → pc = s.pc + 2)
  | .seReg x y _ => (s.getV x = s.getV y → pc = s.pc + 4) ∧ (s.getV x ≠ s.getV y → pc = s.pc + 2)
  | .sneReg x y _ => (s.getV x ≠ s.getV y → pc = s.pc + 4) ∧ (s.getV x = s.getV y → pc = s.pc + 2)
  | .skp _ | .sknp _ => pc = s.pc + 4 ∨ pc = s.pc + 2
  | .ldVxK _ => (s.keyDownNow ≠ none → pc = s.pc + 2) ∧ (s.keyDownNow = none → pc = s.pc)
  | _ => pc = s.pc + 2

/-! ## Sprites (44_display.md R186, R188) -/

/-- A 1 bit of the sprite of `Dxyn` falls on the pixel at row `r`, column `c`: the pixel lies `dr` rows below `Vy` and `dc`
columns right of `Vx`, counted around the grid, and that bit of row `dr` is 1, bit 7 leftmost (entry 7). -/
def SpriteCovers (s : State) (x y : Reg) (n : Nibble) (r c : Nat) : Prop :=
  ∃ dr < n.toNat, ∃ dc < 8, r % 32 = ((s.getV y).toNat + dr) % 32 ∧ c % 64 = ((s.getV x).toNat + dc) % 64 ∧
    (s.readByte (s.i.toNat + dr)).getLsbD (7 - dc) = true

/-- The draw erases something: a 1 bit of the sprite falls on a pixel that is on (R189). -/
def SpriteCollides (s : State) (x y : Reg) (n : Nibble) : Prop :=
  ∃ r < 32, ∃ c < 64, SpriteCovers s x y n r c ∧ s.fb.pixel r c = true

/-! ## Two states that differ in the unused bits of `I` -/

/-- The states agree but for bits 15..12 of `I` (10_state.md R25). -/
def SameButHighI (s t : State) : Prop := t = { s with i := t.i } ∧ t.i.toNat % 4096 = s.i.toNat % 4096

/-- Outcomes that no program can tell apart when only bits 15..12 of `I` differ. -/
def OutcomesAgree : Host.Outcome State Fault Refusal → Host.Outcome State Fault Refusal → Prop
  | .next t, .next t' => SameButHighI t t'
  | .fault f, .fault f' => f = f'
  | .refused r, .refused r' => r = r'
  | _, _ => False

/-- The instructions that read an input of the step (10_state.md R34, R41). -/
def readsInputs : Instr → Bool
  | .rnd _ _ | .skp _ | .sknp _ | .ldVxK _ => true
  | _ => false

end Sys2Proof.Machine

open Sys2Proof Sys2Proof.Machine

/-! ## Reset, invariants, the step -/

/-- Reset is power-on (R39, R250): zero everywhere, the font at 0x000..0x04F, no event. That `TONE` is 0 and no event is
emitted is the spec's own decision D18, D19; the font bytes are its parameter `FONT` (entry 6). -/
def Obligations.ResetIsPowerOn : Prop :=
  (∀ (a : Nat) (h : a < 80), State.reset.readByte a = State.reset.font[a]) ∧
  (∀ a, 80 ≤ a → a < 4096 → State.reset.readByte a = 0) ∧
  (∀ r, State.reset.getV r = 0) ∧ State.reset.i = 0 ∧ State.reset.pc = 0 ∧ State.reset.sp = 0 ∧
  (∀ (k : Nat) (h : k < 16), State.reset.stack[k] = 0) ∧ State.reset.dt = 0 ∧ State.reset.st = 0 ∧
  State.reset.tone = false ∧ (∀ r c, State.reset.fb.pixel r c = false) ∧ State.reset.psize = 0 ∧
  State.reset.events = [] ∧ State.reset.result = none

/-- The invariants hold at reset (R38, R125). -/
def Obligations.ResetMeetsTheInvariants : Prop := State.reset.Inv ∧ State.reset.PcBounded

/-- Every operation keeps the invariants of R38 and the canonical form of memory, from every state that has them. -/
def Obligations.StepKeepsTheInvariants : Prop :=
  ∀ s t : State, s.Inv → step s = .next t → t.Inv

/-- No arithmetic on `PC` wraps (R125): the bound on `PC` and on the live stack entries is kept by every operation. -/
def Obligations.StepKeepsThePcBound : Prop :=
  ∀ s t : State, s.PcBounded → step s = .next t → t.PcBounded

/-- A step runs the decoded instruction (R120): when the two bytes at `PC` decode to `i` and `PC` is not past the end, the
step is `exec i` with the inputs sampled and the schedule moved on (entries 1, 2), returned to the host (entry 30). -/
def Obligations.StepRunsTheDecodedInstruction : Prop :=
  ∀ (s : State) (i : Instr), s.pc.toNat ≤ 0x200 + s.psize →
    decode (wordOfBytes (s.readByte s.pc.toNat) (s.readByte (s.pc.toNat + 1))) = i →
    (∀ q rest, s.script = .step q :: rest →
      let b : State := { s with script := rest, inputs := q, draws := s.draws + 1, result := none }
      ReturnsFromStep b (exec i b) (step s)) ∧
    (s.script = [] →
      let b : State := { s with inputs := none, draws := s.draws + 1, result := none }
      ReturnsFromStep b (exec i b) (step s))

/-- The halt check (R121, R221): strictly past `0x200 + PSIZE` a `Step` halts before the fetch, whatever lies there and
whatever the inputs (D2, D33; entry 16): a fault where the host has nothing left to do, and else a state that notes the halt
and is otherwise as it was (entry 30). -/
def Obligations.PcPastTheEndHalts : Prop :=
  ∀ s : State, 0x200 + s.psize < s.pc.toNat →
    (s.script = [] → step s = .fault (.pcPastEnd s.pc)) ∧
    (∀ q, s.script = [.step q] → step s = .fault (.pcPastEnd s.pc)) ∧
    (∀ q op rest, s.script = .step q :: op :: rest → ∃ t, step s = .next t ∧
      t.result = some (.pcPastEnd s.pc) ∧ t.script = op :: rest ∧ t.pc = s.pc ∧
      FrameBut [.schedule, .sampling, .result] s t)

/-- The fetch is big-endian, each byte's address reduced mod 4096 (R62). -/
def Obligations.FetchIsBigEndian : Prop :=
  ∀ s : State, s.fetchWord.toNat =
    (s.readByte (s.pc.toNat % 4096)).toNat * 256 + (s.readByte ((s.pc.toNat + 1) % 4096)).toNat

/-- A table word put where the step fetches is the instruction the next step runs (entry 12). -/
def Obligations.FetchWordIsRunNext : Prop :=
  ∀ (s : State) (nbits w : Nat), ∃ i q rest, decodeTableWord nbits w = some i ∧
    let b := (s.withFetchWord nbits w).beginStep q rest
    ReturnsFromStep b (exec i b) (step (s.withFetchWord nbits w))

/-- The only stops of an instruction are the two stack conditions and the refused key index (R220, R228): anything else goes
on to a next state. -/
def Obligations.OnlyTheNamedConditionsStop : Prop :=
  ∀ (i : Instr) (s : State),
    (∀ f, exec i s = .fault f →
      (i = .ret ∧ s.sp = 0 ∧ f = .stackUnderflow s.pc) ∨
      ((∃ nnn, i = .call nnn) ∧ s.sp.val = 16 ∧ f = .stackOverflow s.pc)) ∧
    (∀ r, exec i s = .refused r →
      ∃ x, (i = .skp x ∨ i = .sknp x) ∧ 15 < (s.getV x).toNat ∧ Config.keyOor = .refuse ∧
        r = .keyIndexOutOfRange (s.getV x))

/-- A fatal condition is stable (R225): when a `Step` with some inputs halts, then after any number of ticks a `Step` with any
inputs halts the same way, whether or not the host has something left to do (entry 30). -/
def Obligations.HaltIsStable : Prop :=
  ∀ (s : State) (f : Fault) (q : Option StepInputs), step { s with script := [.step q] } = .fault f →
    ∀ (n : Nat) (q' : Option StepInputs) (op : HostOp) (rest : List HostOp),
      step { ticked n s with script := [] } = .fault f ∧
      step { ticked n s with script := [.step q'] } = .fault f ∧
      ∃ t, step { ticked n s with script := .step q' :: op :: rest } = .next t ∧ t.result = some f

/-- Every instruction writes only its write set (R41, R131): the parts, the registers and the bytes of memory it names. -/
def Obligations.InstructionsKeepTheirWriteSets : Prop :=
  ∀ (i : Instr) (s t : State), exec i s = .next t →
    FrameBut (writeSet i) s t ∧ (∀ r, ¬mayWriteReg i r → t.getV r = s.getV r) ∧
    (∀ a, ¬mayWriteByte i s a → t.readByte a = s.readByte a)

/-- `PC` after every instruction is as R124 tabulates it. -/
def Obligations.PcMovesAsTabulated : Prop :=
  ∀ (i : Instr) (s t : State), exec i s = .next t → PcAfter s t.pc i

/-- A step of an instruction emits at most one event (R129). -/
def Obligations.AtMostOneEventPerInstruction : Prop :=
  ∀ (i : Instr) (s t : State), exec i s = .next t → t.events = s.events ∨ ∃ e, t.events = s.events ++ [e]

/-- No program can tell a 16-bit `I` from a 12-bit `I` (R25): two states that differ only in bits 15..12 of `I` take the same
step, to states that again differ only there. -/
def Obligations.HighBitsOfIndexAreUnobservable : Prop :=
  ∀ s s' : State, SameButHighI s s' → OutcomesAgree (step s) (step s')

/-- An instruction that reads no input ignores the inputs (R34). -/
def Obligations.InputsAreIgnoredByOtherInstructions : Prop :=
  ∀ (i : Instr) (s : State) (q : Option StepInputs) (d : Nat), readsInputs i = false →
    (∀ t, exec i s = .next t →
      exec i { s with inputs := q, draws := d } = .next { t with inputs := q, draws := d }) ∧
    (∀ f, exec i s = .fault f → exec i { s with inputs := q, draws := d } = .fault f)

/-! ## Encoding -/

/-- Decoding the word of a well-formed instruction gives it back, with every operand at every value (R92, R94, R95). -/
def Obligations.DecodeOfEncodeIsTheInstruction : Prop :=
  ∀ i : Instr, i.wf = true → decode (encode i) = i

/-- Every word decodes to a well-formed instruction whose word it is (R94): the decoder drops no bit. -/
def Obligations.EncodeOfDecodeIsTheWord : Prop :=
  ∀ w : Word, (decode w).wf = true ∧ encode (decode w) = w

/-- The decoder is the opcode map (R95, R101): the rows that select a word are the one row of the decoded instruction, or none
for an unknown word. -/
def Obligations.DecoderIsTheOpcodeMap : Prop :=
  ∀ w : Word, (opcodeMap.filter fun row => w &&& row.1 == row.2) = (decode w).row.toList

/-- The words that select no instruction are the four sets of R96. -/
def Obligations.UnknownWordsAreTheFourSets : Prop :=
  ∀ w : Word, decode w = .unknown w ↔
    (w.toNat < 0x1000 ∧ w.toNat ≠ 0x00E0 ∧ w.toNat ≠ 0x00EE) ∨
    (0x8000 ≤ w.toNat ∧ w.toNat < 0x9000 ∧ 7 < w.toNat % 16 ∧ w.toNat % 16 ≠ 0xE) ∨
    (0xE000 ≤ w.toNat ∧ w.toNat < 0xF000 ∧ w.toNat % 256 ≠ 0x9E ∧ w.toNat % 256 ≠ 0xA1) ∨
    (0xF000 ≤ w.toNat ∧ w.toNat % 256 ∉ [0x07, 0x0A, 0x15, 0x18, 0x1E, 0x29, 0x33, 0x55, 0x65])

/-- Words of every family, 0 to F, written out from the spec's encodings (R95, the vectors T-DEC of 95_test_vectors.md). That the
low nibble of `5127` and `9121` is not examined is decision D8 (entry 17). -/
def Obligations.WrittenOutWordsDecode : Prop :=
  decode 0x00E0 = .cls ∧ decode 0x00EE = .ret ∧ decode 0x1ABC = .jp 0xABC ∧ decode 0x2200 = .call 0x200 ∧
  decode 0x3A7F = .seImm 0xA 0x7F ∧ decode 0x4B00 = .sneImm 0xB 0x00 ∧ decode 0x5127 = .seReg 1 2 7 ∧
  decode 0x6005 = .ldImm 0 5 ∧ decode 0x70FF = .addImm 0 0xFF ∧ decode 0x8AB4 = .addReg 0xA 0xB ∧
  decode 0x8AB8 = .unknown 0x8AB8 ∧ decode 0x9121 = .sneReg 1 2 1 ∧ decode 0xA123 = .ldI 0x123 ∧ decode 0xB123 = .jpV0 0x123 ∧
  decode 0xC3F0 = .rnd 3 0xF0 ∧ decode 0xD125 = .drw 1 2 5 ∧ decode 0xE59E = .skp 5 ∧ decode 0xE5A1 = .sknp 5 ∧
  decode 0xF20A = .ldVxK 2 ∧ decode 0xF265 = .ldRegs 2 ∧ decode 0x0000 = .unknown 0

/-! ## Memory -/

/-- Over one `FONT`, memories in canonical form that read alike everywhere are the same list. -/
def Obligations.CanonicalMemoryIsUnique : Prop :=
  ∀ (font : Font) (m m' : Memory), m.wf font = true → m'.wf font = true →
    (∀ a, m.read font a = m'.read font a) → m = m'

/-- A store is seen by the very next fetch (R76): when `Fx55` stores two registers over the two bytes after itself, the word
fetched next is those two registers. -/
def Obligations.StoresAreSeenByTheNextFetch : Prop :=
  ∀ (s : State) (x : Reg) (k : Nat), k < x.toNat → (s.i.toNat + k) % 4096 = (s.pc + 2).toNat % 4096 →
    ∃ t, exec (.stRegs x) s = .next t ∧
      t.fetchWord = wordOfBytes (s.getV (BitVec.ofNat 4 k)) (s.getV (BitVec.ofNat 4 (k + 1)))

/-! ## Register load, arithmetic, logic, random -/

/-- `6xkk` and `8xy0` load a register (R151, R153); `VF` changes only as the destination. -/
def Obligations.LoadsWriteTheDestination : Prop :=
  (∀ w : Word, w &&& 0xF000 = 0x6000 → decode w = .ldImm (fieldX w) (fieldKK w)) ∧
  (∀ w : Word, w &&& 0xF00F = 0x8000 → decode w = .ldReg (fieldX w) (fieldY w)) ∧
  ∀ (s : State) (x y : Reg) (kk : Byte),
    (∃ t, exec (.ldImm x kk) s = .next t ∧ t.getV x = kk ∧ RegsBut [x] s t ∧ t.pc = s.pc + 2 ∧
      FrameBut [.regs] s t) ∧
    (∃ t, exec (.ldReg x y) s = .next t ∧ t.getV x = s.getV y ∧ RegsBut [x] s t ∧ t.pc = s.pc + 2 ∧
      FrameBut [.regs] s t)

/-- `7xkk` adds an immediate mod 256 and sets no flag (R152). -/
def Obligations.AddImmediateWrapsWithoutFlag : Prop :=
  (∀ w : Word, w &&& 0xF000 = 0x7000 → decode w = .addImm (fieldX w) (fieldKK w)) ∧
  ∀ (s : State) (x : Reg) (kk : Byte), ∃ t, exec (.addImm x kk) s = .next t ∧
    (t.getV x).toNat = ((s.getV x).toNat + kk.toNat) % 256 ∧ RegsBut [x] s t ∧ t.pc = s.pc + 2 ∧
    FrameBut [.regs] s t

/-- `8xy1`, `8xy2`, `8xy3` are OR, AND, XOR bit by bit and do not reset `VF` (R154, R155, R156). -/
def Obligations.LogicIsBitwiseAndKeepsTheFlag : Prop :=
  (∀ w : Word, w &&& 0xF00F = 0x8001 → decode w = .orReg (fieldX w) (fieldY w)) ∧
  (∀ w : Word, w &&& 0xF00F = 0x8002 → decode w = .andReg (fieldX w) (fieldY w)) ∧
  (∀ w : Word, w &&& 0xF00F = 0x8003 → decode w = .xorReg (fieldX w) (fieldY w)) ∧
  ∀ (s : State) (x y : Reg),
    (∃ t, exec (.orReg x y) s = .next t ∧
      (∀ k, (t.getV x).getLsbD k = ((s.getV x).getLsbD k || (s.getV y).getLsbD k)) ∧
      RegsBut [x] s t ∧ t.pc = s.pc + 2 ∧ FrameBut [.regs] s t) ∧
    (∃ t, exec (.andReg x y) s = .next t ∧
      (∀ k, (t.getV x).getLsbD k = ((s.getV x).getLsbD k && (s.getV y).getLsbD k)) ∧
      RegsBut [x] s t ∧ t.pc = s.pc + 2 ∧ FrameBut [.regs] s t) ∧
    (∃ t, exec (.xorReg x y) s = .next t ∧
      (∀ k, (t.getV x).getLsbD k = ((s.getV x).getLsbD k ^^ (s.getV y).getLsbD k)) ∧
      RegsBut [x] s t ∧ t.pc = s.pc + 2 ∧ FrameBut [.regs] s t)

/-- `8xy4`: the sum mod 256 and the carry (R157). That the flag is written last, so that it wins when `x = 15`, is the spec's
own decision D6 (entry 9). -/
def Obligations.AddSetsSumAndCarry : Prop :=
  ∀ (s : State) (x y : Reg), ∃ t, exec (.addReg x y) s = .next t ∧
    (x ≠ 0xF → (t.getV x).toNat = ((s.getV x).toNat + (s.getV y).toNat) % 256) ∧
    (255 < (s.getV x).toNat + (s.getV y).toNat → t.getV 0xF = 1) ∧
    ((s.getV x).toNat + (s.getV y).toNat ≤ 255 → t.getV 0xF = 0) ∧
    RegsBut [x, 0xF] s t ∧ t.pc = s.pc + 2 ∧ FrameBut [.regs] s t

/-- `8xy5` and `8xy7`: the difference mod 256 and the not-borrow, the operands exchanged in `8xy7` (R158, R160). The flag is
written last by decision D6 (entry 9); the meaning of SUBN is the spec's from general knowledge and D7 (entry 8). -/
def Obligations.SubtractSetsDifferenceAndNotBorrow : Prop :=
  ∀ (s : State) (x y : Reg),
    (∃ t, exec (.subReg x y) s = .next t ∧
      (x ≠ 0xF → (t.getV x).toNat = ((s.getV x).toNat + 256 - (s.getV y).toNat) % 256) ∧
      ((s.getV y).toNat ≤ (s.getV x).toNat → t.getV 0xF = 1) ∧
      ((s.getV x).toNat < (s.getV y).toNat → t.getV 0xF = 0) ∧
      RegsBut [x, 0xF] s t ∧ t.pc = s.pc + 2 ∧ FrameBut [.regs] s t) ∧
    (∃ t, exec (.subn x y) s = .next t ∧
      (x ≠ 0xF → (t.getV x).toNat = ((s.getV y).toNat + 256 - (s.getV x).toNat) % 256) ∧
      ((s.getV x).toNat ≤ (s.getV y).toNat → t.getV 0xF = 1) ∧
      ((s.getV y).toNat < (s.getV x).toNat → t.getV 0xF = 0) ∧
      RegsBut [x, 0xF] s t ∧ t.pc = s.pc + 2 ∧ FrameBut [.regs] s t)

/-- `8xy6` and `8xyE` shift `Vx` in place by one, for every `y`, and put the dropped bit in `VF` (R159, R161). The flag is
written last by decision D6 (entry 9). -/
def Obligations.ShiftsDropOneBitIntoTheFlag : Prop :=
  ∀ (s : State) (x y : Reg),
    (∃ t, exec (.shr x y) s = .next t ∧
      (x ≠ 0xF → (t.getV x).toNat = (s.getV x).toNat / 2) ∧
      (t.getV 0xF).toNat = (s.getV x).toNat % 2 ∧
      RegsBut [x, 0xF] s t ∧ t.pc = s.pc + 2 ∧ FrameBut [.regs] s t) ∧
    (∃ t, exec (.shl x y) s = .next t ∧
      (x ≠ 0xF → (t.getV x).toNat = (s.getV x).toNat * 2 % 256) ∧
      (t.getV 0xF).toNat = (s.getV x).toNat / 128 ∧
      RegsBut [x, 0xF] s t ∧ t.pc = s.pc + 2 ∧ FrameBut [.regs] s t)

/-- `Cxkk`: the random byte of the step, whatever it is, ANDed with `kk` (R162). That it is an input of the step is decision
D13 (entry 2). -/
def Obligations.RandomByteIsMasked : Prop :=
  ∀ (s : State) (x : Reg) (kk : Byte), ∃ t, exec (.rnd x kk) s = .next t ∧
    t.getV x = s.rndNow &&& kk ∧ (∀ q, s.inputs = some q → s.rndNow = q.rnd) ∧
    (∀ k, kk.getLsbD k = false → (t.getV x).getLsbD k = false) ∧
    RegsBut [x] s t ∧ t.pc = s.pc + 2 ∧ FrameBut [.regs] s t

/-! ## Control flow -/

/-- `1nnn` jumps to `nnn` (R136). -/
def Obligations.JumpSetsThePc : Prop :=
  (∀ w : Word, w &&& 0xF000 = 0x1000 → decode w = .jp (fieldNNN w)) ∧
  ∀ (s : State) (nnn : Addr), ∃ t, exec (.jp nnn) s = .next t ∧ t.pc.toNat = nnn.toNat ∧ FrameBut [] s t

/-- `Bnnn` jumps to `nnn + V0`, not reduced to 12 bits (R138; decision D3, entry 15). -/
def Obligations.OffsetJumpAddsV0 : Prop :=
  ∀ (s : State) (nnn : Addr), ∃ t, exec (.jpV0 nnn) s = .next t ∧
    t.pc.toNat = nnn.toNat + (s.getV 0).toNat ∧ FrameBut [] s t

/-- `2nnn` below the full stack pushes its own address (R137; decision D5, entry 14). -/
def Obligations.CallPushesItsOwnAddress : Prop :=
  ∀ (s : State) (nnn : Addr) (h : s.sp.val < 16), ∃ t, exec (.call nnn) s = .next t ∧
    t.stack[s.sp.val] = s.pc ∧ (∀ (k : Nat) (hk : k < 16), k ≠ s.sp.val → t.stack[k] = s.stack[k]) ∧
    t.sp.val = s.sp.val + 1 ∧ t.pc.toNat = nnn.toNat ∧ FrameBut [.stack] s t

/-- `00EE` above the empty stack goes to two past the popped entry, and clears nothing (R135; decision D5, entry 14). -/
def Obligations.ReturnGoesPastThePoppedCall : Prop :=
  ∀ (s : State) (_ : 0 < s.sp.val) (h : s.sp.val - 1 < 16), ∃ t, exec .ret s = .next t ∧
    t.pc = s.stack[s.sp.val - 1] + 2 ∧ t.sp.val = s.sp.val - 1 ∧ t.stack = s.stack ∧ FrameBut [.stack] s t

/-- A call and the return from the place it went to come back to the instruction after the call, with the same `SP`, whatever
ran between as long as `SP` and that stack entry are as the call left them (R27, R135, R137; decision D5, entry 14). -/
def Obligations.ReturnUndoesCall : Prop :=
  ∀ (s : State) (nnn : Addr) (h : s.sp.val < 16), ∃ t, exec (.call nnn) s = .next t ∧
    ∀ u : State, u.sp = t.sp → u.stack[s.sp.val] = t.stack[s.sp.val] →
      ∃ v, exec .ret u = .next v ∧ v.pc = s.pc + 2 ∧ v.sp = s.sp

/-- A call on the full stack and a return on the empty one are fatal, record `PC` and answer no state (R222, R223). -/
def Obligations.StackLimitsAreFatal : Prop :=
  ∀ (s : State) (nnn : Addr),
    (s.sp.val = 16 → exec (.call nnn) s = .fault (.stackOverflow s.pc)) ∧
    (s.sp.val = 0 → exec .ret s = .fault (.stackUnderflow s.pc))

/-- `3xkk` and `4xkk` skip on a comparison with an immediate (R139, R140). -/
def Obligations.ImmediateSkips : Prop :=
  (∀ w : Word, w &&& 0xF000 = 0x3000 → decode w = .seImm (fieldX w) (fieldKK w)) ∧
  (∀ w : Word, w &&& 0xF000 = 0x4000 → decode w = .sneImm (fieldX w) (fieldKK w)) ∧
  ∀ (s : State) (x : Reg) (kk : Byte),
    Skips (.seImm x kk) s (s.getV x = kk) ∧ Skips (.sneImm x kk) s (s.getV x ≠ kk)

/-- `5xyN` and `9xyN` skip on a comparison of registers, for every low nibble (R141, R142; decision D8, entry 17). -/
def Obligations.RegisterSkips : Prop :=
  ∀ (s : State) (x y : Reg) (n : Nibble),
    Skips (.seReg x y n) s (s.getV x = s.getV y) ∧ Skips (.sneReg x y n) s (s.getV x ≠ s.getV y)

/-- An unknown word is reported with the address it was fetched from and skipped, and nothing else (R126; decision D34,
entry 27). -/
def Obligations.UnknownOpcodeIsReportedAndSkipped : Prop :=
  ∀ (s : State) (op : Word), ∃ t, exec (.unknown op) s = .next t ∧ t.pc = s.pc + 2 ∧
    t.events = s.events ++ [.unknownOpcode op s.pc] ∧ FrameBut [.events] s t

/-! ## Index and memory -/

/-- `Annn` loads `I` (R170). -/
def Obligations.LoadIndexSetsI : Prop :=
  (∀ w : Word, w &&& 0xF000 = 0xA000 → decode w = .ldI (fieldNNN w)) ∧
  ∀ (s : State) (nnn : Addr), ∃ t, exec (.ldI nnn) s = .next t ∧ t.i.toNat = nnn.toNat ∧ t.pc = s.pc + 2 ∧
    FrameBut [.index] s t

/-- `Fx1E` adds to `I` mod 65536 without a flag, `Fx29` multiplies the whole `Vx` by 5 (R171, R172; decisions D4, D15, entries
15, 24). -/
def Obligations.IndexArithmetic : Prop :=
  ∀ (s : State) (x : Reg),
    (∃ t, exec (.addI x) s = .next t ∧ t.i.toNat = (s.i.toNat + (s.getV x).toNat) % 65536 ∧ t.pc = s.pc + 2 ∧
      FrameBut [.index] s t) ∧
    (∃ t, exec (.ldF x) s = .next t ∧ t.i.toNat = (s.getV x).toNat * 5 ∧ t.pc = s.pc + 2 ∧
      FrameBut [.index] s t)

/-- `Fx33` stores the three decimal digits at `I`, `I+1`, `I+2`, each address reduced mod 4096, and no other byte (R173). -/
def Obligations.DecimalDigitsAreStored : Prop :=
  (∀ w : Word, w &&& 0xF0FF = 0xF033 → decode w = .ldB (fieldX w)) ∧
  ∀ (s : State) (x : Reg), ∃ t, exec (.ldB x) s = .next t ∧
    (t.readByte s.i.toNat).toNat = (s.getV x).toNat / 100 ∧
    (t.readByte (s.i.toNat + 1)).toNat = (s.getV x).toNat / 10 % 10 ∧
    (t.readByte (s.i.toNat + 2)).toNat = (s.getV x).toNat % 10 ∧
    (∀ a, (∀ k ≤ 2, a % 4096 ≠ (s.i.toNat + k) % 4096) → t.readByte a = s.readByte a) ∧
    t.pc = s.pc + 2 ∧ FrameBut [.memory] s t

/-- `Fx55` stores `V0..Vx` from `I` up, each address reduced mod 4096, no other byte, and leaves `I` (R174; decision D16,
entry 24). -/
def Obligations.RegistersAreStored : Prop :=
  ∀ (s : State) (x : Reg), ∃ t, exec (.stRegs x) s = .next t ∧
    (∀ k : Reg, k.toNat ≤ x.toNat → t.readByte (s.i.toNat + k.toNat) = s.getV k) ∧
    (∀ a, (∀ k ≤ x.toNat, a % 4096 ≠ (s.i.toNat + k) % 4096) → t.readByte a = s.readByte a) ∧
    t.pc = s.pc + 2 ∧ FrameBut [.memory] s t

/-- `Fx65` loads `V0..Vx` from `I` up, no other register, and leaves `I` (R175; decision D16, entry 24). -/
def Obligations.RegistersAreLoaded : Prop :=
  ∀ (s : State) (x : Reg), ∃ t, exec (.ldRegs x) s = .next t ∧
    (∀ k : Reg, k.toNat ≤ x.toNat → t.getV k = s.readByte (s.i.toNat + k.toNat)) ∧
    (∀ k : Reg, x.toNat < k.toNat → t.getV k = s.getV k) ∧
    t.pc = s.pc + 2 ∧ FrameBut [.regs] s t

/-! ## Display -/

/-- `00E0` turns every pixel off and always presents (R187). -/
def Obligations.ClearTurnsEveryPixelOffAndPresents : Prop :=
  decode 0x00E0 = .cls ∧
  ∀ s : State, ∃ t, exec .cls s = .next t ∧ (∀ r c, t.fb.pixel r c = false) ∧
    t.events = s.events ++ [.present t.fb] ∧ t.pc = s.pc + 2 ∧ FrameBut [.screen, .events] s t

/-- `Dxyn` toggles exactly the pixels under the sprite's 1 bits, wrapping on both axes, sets `VF` to whether it erased one, and
presents exactly then (R186, R188, R189). The bit order is decision D9 (entry 7), `VF` cleared without a collision and `n = 0`
are D10 (entry 23), and that it presents exactly on a collision is the choice of U9 and C6 (entry 28). -/
def Obligations.DrawTogglesTheSpriteAndReportsCollision : Prop :=
  ∀ (s : State) (x y : Reg) (n : Nibble), ∃ t, exec (.drw x y n) s = .next t ∧
    (∀ r < 32, ∀ c < 64, SpriteCovers s x y n r c → t.fb.pixel r c = !s.fb.pixel r c) ∧
    (∀ r < 32, ∀ c < 64, ¬SpriteCovers s x y n r c → t.fb.pixel r c = s.fb.pixel r c) ∧
    (SpriteCollides s x y n → t.getV 0xF = 1 ∧ t.events = s.events ++ [.present t.fb]) ∧
    (¬SpriteCollides s x y n → t.getV 0xF = 0 ∧ t.events = s.events) ∧
    RegsBut [0xF] s t ∧ t.pc = s.pc + 2 ∧ FrameBut [.regs, .screen, .events] s t

/-- The same sprite drawn twice at the same place restores every pixel, and the second draw collides exactly when some 1 bit
fell on an off pixel in the first (R186, R189, R190). The registers are put back between the draws, so that the place is the
same when a coordinate is `VF`. That `VF` is cleared without a collision, on which the second half rests, is decision D10
(entry 23), and the bit order of the sprite is D9 (entry 7). -/
def Obligations.DrawTwiceRestoresTheGrid : Prop :=
  ∀ (s : State) (x y : Reg) (n : Nibble), ∃ t u, exec (.drw x y n) s = .next t ∧
    exec (.drw x y n) { t with v := s.v } = .next u ∧ u.fb = s.fb ∧
    (u.getV 0xF = 1 ↔ ∃ r < 32, ∃ c < 64, SpriteCovers s x y n r c ∧ s.fb.pixel r c = false)

/-! ## Keypad and timers -/

/-- `Ex9E` and `ExA1` on a key index 0..15 skip on the level of that key (R201, R202). The levels are the step's input
`KEYS` (decision D1, entry 2). -/
def Obligations.KeySkipsTestTheLevel : Prop :=
  ∀ (s : State) (x : Reg) (h : (s.getV x).toNat < 16),
    Skips (.skp x) s (s.keysNow[(s.getV x).toNat] = true) ∧
    Skips (.sknp x) s (s.keysNow[(s.getV x).toNat] = false) ∧
    (∀ q, s.inputs = some q → s.keysNow = q.keys)

/-- `Ex9E` and `ExA1` on a key index above 15 do what the policy `KEY_OOR` says, for each of its values (R201, R202, U2;
decision D11, entry 5). -/
def Obligations.KeyIndexOutOfRangeFollowsThePolicy : Prop :=
  ∀ (s : State) (x : Reg), 15 < (s.getV x).toNat →
    match Config.keyOor with
    | .refuse => exec (.skp x) s = .refused (.keyIndexOutOfRange (s.getV x)) ∧
        exec (.sknp x) s = .refused (.keyIndexOutOfRange (s.getV x))
    | .mask => ∀ h : (s.getV x).toNat % 16 < 16,
        Skips (.skp x) s (s.keysNow[(s.getV x).toNat % 16] = true) ∧
        Skips (.sknp x) s (s.keysNow[(s.getV x).toNat % 16] = false)
    | .notPressed => Skips (.skp x) s False ∧ Skips (.sknp x) s True

/-- `Fx0A` takes the key of a key-down event, and without one changes nothing but reporting `Waiting` (R203; decision D12,
entry 18). -/
def Obligations.KeyWaitResolvesOrStutters : Prop :=
  ∀ (s : State) (x : Reg),
    (∀ k, s.keyDownNow = some k → ∃ t, exec (.ldVxK x) s = .next t ∧ (t.getV x).toNat = k.toNat ∧
      RegsBut [x] s t ∧ t.pc = s.pc + 2 ∧ FrameBut [.regs] s t) ∧
    (s.keyDownNow = none → ∃ t, exec (.ldVxK x) s = .next t ∧ t.events = s.events ++ [.waiting] ∧
      t.pc = s.pc ∧ FrameBut [.events] s t) ∧
    (∀ q, s.inputs = some q → s.keyDownNow = q.keyDown)

/-- `Fx07` reads `DT` and `Fx15` writes it (R204, R205). -/
def Obligations.DelayTimerIsReadAndWritten : Prop :=
  (∀ w : Word, w &&& 0xF0FF = 0xF007 → decode w = .ldVxDT (fieldX w)) ∧
  (∀ w : Word, w &&& 0xF0FF = 0xF015 → decode w = .ldDTVx (fieldX w)) ∧
  ∀ (s : State) (x : Reg),
    (∃ t, exec (.ldVxDT x) s = .next t ∧ t.getV x = s.dt ∧ RegsBut [x] s t ∧ t.pc = s.pc + 2 ∧
      FrameBut [.regs] s t) ∧
    (∃ t, exec (.ldDTVx x) s = .next t ∧ t.dt = s.getV x ∧ t.pc = s.pc + 2 ∧ FrameBut [.delay] s t)

/-- `Fx18` writes `ST`, and the audio gate and its event follow a change between zero and nonzero (R206, R32; the level as
state is decision D18, entry 21). -/
def Obligations.SoundTimerDrivesTheGate : Prop :=
  ∀ (s : State) (x : Reg), ∃ t, exec (.ldSTVx x) s = .next t ∧ t.st = s.getV x ∧
    (s.st = 0 → s.getV x ≠ 0 → t.tone = true ∧ t.events = s.events ++ [.setTone true]) ∧
    (s.st ≠ 0 → s.getV x = 0 → t.tone = false ∧ t.events = s.events ++ [.setTone false]) ∧
    (s.st = 0 → s.getV x = 0 → t.tone = s.tone ∧ t.events = s.events) ∧
    (s.st ≠ 0 → s.getV x ≠ 0 → t.tone = s.tone ∧ t.events = s.events) ∧
    t.pc = s.pc + 2 ∧ FrameBut [.sound, .events] s t

/-- `TimerTick` counts both timers down to 0 and no further, and switches the gate off when `ST` goes from 1 to 0 (R208). That
the gate is a level with events on change, and that a tick touches nothing else and presents nothing, are D18 and D22
(entry 21). -/
def Obligations.TimerTickCountsDown : Prop :=
  ∀ (s : State) (rest : List HostOp), s.script = .timerTick :: rest → ∃ t, step s = .next t ∧
    t.dt.toNat = s.dt.toNat - 1 ∧ t.st.toNat = s.st.toNat - 1 ∧
    (s.st = 1 → t.tone = false ∧ t.events = s.events ++ [.setTone false]) ∧
    (s.st ≠ 1 → t.tone = s.tone ∧ t.events = s.events) ∧
    t.script = rest ∧ t.pc = s.pc ∧ FrameBut [.delay, .sound, .events, .schedule] s t

/-- Any number of ticks never drives a timer below 0, and switches the gate off exactly once (R207, R208; D18 and D22,
entry 21). -/
def Obligations.TicksSaturateAtZero : Prop :=
  ∀ (s : State) (n : Nat),
    (ticked n s).dt.toNat = s.dt.toNat - n ∧ (ticked n s).st.toNat = s.st.toNat - n ∧
    (0 < s.st.toNat → s.st.toNat ≤ n →
      (ticked n s).tone = false ∧ (ticked n s).events = s.events ++ [.setTone false]) ∧
    (s.st = 0 ∨ n < s.st.toNat → (ticked n s).tone = s.tone ∧ (ticked n s).events = s.events) ∧
    (ticked n s).pc = s.pc ∧ FrameBut [.delay, .sound, .events] s (ticked n s)

/-! ## The host's other operations -/

/-- `RunEntry` (R253): what it resets, what it keeps and its events in order. What it keeps and that it presents are decisions
D24 and D19 (entry 11), the gate D18 (entry 21). -/
def Obligations.RunEntryResetsAndKeeps : Prop :=
  ∀ (s : State) (rest : List HostOp), s.script = .runEntry :: rest → ∃ t, step s = .next t ∧
    t.pc = 0x200 ∧ t.sp = 0 ∧ t.stack = s.stack ∧ t.dt = 0 ∧ t.st = 0 ∧ t.i = 0 ∧
    (∀ r c, t.fb.pixel r c = false) ∧ t.running = true ∧ t.script = rest ∧
    (s.st ≠ 0 → t.tone = false ∧ t.events = s.events ++ [.setTone false, .present t.fb]) ∧
    (s.st = 0 → t.tone = s.tone ∧ t.events = s.events ++ [.present t.fb]) ∧
    FrameBut [.stack, .delay, .sound, .index, .screen, .events, .schedule, .running] s t

/-- `LoadProgram` copies the image to 0x200 and up and records its length, or is refused (R251, R252; when it is refused is
decision D25, entry 13). After it no run is in progress, so that another load before the next `RunEntry` is taken (R252). -/
def Obligations.LoadProgramCopiesOrIsRefused : Prop :=
  ∀ (s : State) (bytes : List Byte) (rest : List HostOp), s.script = .loadProgram bytes :: rest →
    (3584 < bytes.length → step s = .refused (.programTooLarge bytes.length)) ∧
    (bytes.length ≤ 3584 → s.inRun = true → step s = .refused .loadDuringRun) ∧
    (bytes.length ≤ 3584 → s.inRun = false → ∃ t, step s = .next t ∧
      (∀ (k : Nat) (h : k < bytes.length), t.readByte (0x200 + k) = bytes[k]) ∧
      (∀ a < 4096, a < 0x200 ∨ 0x200 + bytes.length ≤ a → t.readByte a = s.readByte a) ∧
      t.psize = bytes.length ∧ t.inRun = false ∧ t.script = rest ∧ t.pc = s.pc ∧
      FrameBut [.memory, .program, .schedule, .running] s t)

/-- `Construct` brings every element of the block to its power-on value from any state, with whatever `FONT` the machine has at
0x000..0x04F, and emits nothing (R250; that nothing is emitted is decisions D18, D19, entry 29). -/
def Obligations.ConstructRestoresPowerOn : Prop :=
  ∀ (s : State) (rest : List HostOp), s.script = .construct :: rest → ∃ t, step s = .next t ∧
    (∀ (a : Nat) (h : a < 80), t.readByte a = s.font[a]) ∧ (∀ a, 80 ≤ a → a < 4096 → t.readByte a = 0) ∧
    t.pc = 0 ∧ t.script = rest ∧
    FrameBut [.memory, .font, .events, .schedule, .sampling, .result] State.reset t ∧
    t.font = s.font ∧ t.events = s.events ∧ t.inputs = s.inputs ∧ t.draws = s.draws ∧ t.result = s.result

/-- The host's stopping of a run changes no element of the block (R256); afterwards no run is in progress (entry 13). -/
def Obligations.StoppingARunChangesNoElement : Prop :=
  ∀ (s : State) (rest : List HostOp), s.script = .stop :: rest → ∃ t, step s = .next t ∧
    t.inRun = false ∧ t.script = rest ∧ t.pc = s.pc ∧ FrameBut [.schedule, .running] s t

/-! ## After a halt -/

/-- A `Step` that halts changes no element of the block, emits nothing, and leaves the host free to go on (R224, R232): the three
fatal conditions, each with the value it records (R221 to R223; D2, D20, entries 16, 20, 30). -/
def Obligations.HaltChangesNothingAndTheHostGoesOn : Prop :=
  ∀ (s : State) (q : Option StepInputs) (op : HostOp) (rest : List HostOp) (f : Fault),
    s.script = .step q :: op :: rest →
    (0x200 + s.psize < s.pc.toNat ∧ f = .pcPastEnd s.pc ∨
      s.pc.toNat ≤ 0x200 + s.psize ∧ (∃ nnn, decode s.fetchWord = .call nnn) ∧ s.sp.val = 16 ∧ f = .stackOverflow s.pc ∨
      s.pc.toNat ≤ 0x200 + s.psize ∧ decode s.fetchWord = .ret ∧ s.sp.val = 0 ∧ f = .stackUnderflow s.pc) →
    ∃ t, step s = .next t ∧ t.result = some f ∧ t.script = op :: rest ∧ t.pc = s.pc ∧
      FrameBut [.schedule, .sampling, .result] s t

/-- After a halt the host's ways on restart the machine (R232): `RunEntry` at once, or any `LoadProgram` of legal size, which is
taken although the run was never stopped, and then `RunEntry`. That `V`, `MEM` and `PSIZE` keep their values through `RunEntry`
is decision D24 (entry 11), when a load is taken is D25, with the end of a run as R225 defines it (entry 13), and how the host
goes on after a halt is entry 30. -/
def Obligations.TheHostRestartsAHaltedMachine : Prop :=
  ∀ (s : State) (q : Option StepInputs) (f : Fault) (bytes : List Byte) (rest : List HostOp), bytes.length ≤ 3584 →
    step { s with script := [.step q] } = .fault f →
    (∃ t u, step { s with script := .step q :: .runEntry :: rest } = .next t ∧ step t = .next u ∧
      u.pc = 0x200 ∧ u.sp = 0 ∧ u.dt = 0 ∧ u.st = 0 ∧ u.i = 0 ∧ (∀ r c, u.fb.pixel r c = false) ∧ u.script = rest ∧
      (∀ r, u.getV r = s.getV r) ∧ (∀ a, u.readByte a = s.readByte a) ∧ u.psize = s.psize) ∧
    (∃ t u v, step { s with script := .step q :: .loadProgram bytes :: .runEntry :: rest } = .next t ∧
      step t = .next u ∧ step u = .next v ∧
      v.pc = 0x200 ∧ v.sp = 0 ∧ v.dt = 0 ∧ v.st = 0 ∧ v.i = 0 ∧ (∀ r c, v.fb.pixel r c = false) ∧ v.script = rest ∧
      (∀ r, v.getV r = s.getV r) ∧ (∀ (k : Nat) (h : k < bytes.length), v.readByte (0x200 + k) = bytes[k]) ∧
      (∀ a < 4096, a < 0x200 ∨ 0x200 + bytes.length ≤ a → v.readByte a = s.readByte a) ∧ v.psize = bytes.length)

/-- The causes are numbered as R227 tabulates them, each with the value it records (decision D21, entry 20): the three fatal
conditions, and the event of the unknown opcode. No other event is a condition. -/
def Obligations.CausesAreNumberedAsTabulated : Prop :=
  ∀ (pc op : Word) (fb : Framebuffer) (b : Bool),
    (Fault.pcPastEnd pc).code = 1 ∧ (Fault.pcPastEnd pc).recorded = pc ∧
    (Fault.stackOverflow pc).code = 2 ∧ (Fault.stackOverflow pc).recorded = pc ∧
    (Fault.stackUnderflow pc).code = 3 ∧ (Fault.stackUnderflow pc).recorded = pc ∧
    (Event.unknownOpcode op pc).code = some 4 ∧ (Event.unknownOpcode op pc).recorded = some (op, pc) ∧
    (Event.present fb).code = none ∧ (Event.setTone b).code = none ∧ Event.waiting.code = none
end

