-- ==== Sys2Proof/Laws/Decode.lean ====
section
/-! SUPPORT. The fields of a word put together by a format are the fields that went in, and a word is its fields put together
(30_encoding.md R91, R92). -/

namespace Sys2Proof

/-! ## A format's fields -/

theorem extractLsb'_append_high {n m : Nat} (a : BitVec n) (b : BitVec m) : (a ++ b).extractLsb' m n = a := by
  ext i hi
  simp [BitVec.getElem_extractLsb', BitVec.getLsbD_append, hi]
theorem extractLsb'_append_low {n m : Nat} (a : BitVec n) (b : BitVec m) (k l : Nat) (h : k + l ≤ m) :
    (a ++ b).extractLsb' k l = b.extractLsb' k l := by
  ext i hi
  simp [BitVec.getElem_extractLsb', BitVec.getLsbD_append, show k + i < m by omega]
theorem extractLsb'_all {n : Nat} (a : BitVec n) : a.extractLsb' 0 n = a := by
  ext i hi
  simp

@[simp] theorem fieldT_formatNNN (t : BitVec 4) (a : Addr) : fieldT (formatNNN t a) = t :=
  extractLsb'_append_high t a
@[simp] theorem fieldNNN_formatNNN (t : BitVec 4) (a : Addr) : fieldNNN (formatNNN t a) = a :=
  (extractLsb'_append_low t a 0 12 (by decide)).trans (extractLsb'_all a)
@[simp] theorem fieldT_formatXKK (t : BitVec 4) (x : Reg) (kk : Byte) : fieldT (formatXKK t x kk) = t :=
  extractLsb'_append_high t _
@[simp] theorem fieldX_formatXKK (t : BitVec 4) (x : Reg) (kk : Byte) : fieldX (formatXKK t x kk) = x :=
  (extractLsb'_append_low t (x ++ kk) 8 4 (by decide)).trans (extractLsb'_append_high x kk)
@[simp] theorem fieldKK_formatXKK (t : BitVec 4) (x : Reg) (kk : Byte) : fieldKK (formatXKK t x kk) = kk :=
  (extractLsb'_append_low t (x ++ kk) 0 8 (by decide)).trans
    ((extractLsb'_append_low x kk 0 8 (by decide)).trans (extractLsb'_all kk))
@[simp] theorem fieldT_formatXYN (t : BitVec 4) (x y : Reg) (n : Nibble) : fieldT (formatXYN t x y n) = t :=
  extractLsb'_append_high t _
@[simp] theorem fieldX_formatXYN (t : BitVec 4) (x y : Reg) (n : Nibble) : fieldX (formatXYN t x y n) = x :=
  (extractLsb'_append_low t (x ++ (y ++ n)) 8 4 (by decide)).trans (extractLsb'_append_high x _)
@[simp] theorem fieldY_formatXYN (t : BitVec 4) (x y : Reg) (n : Nibble) : fieldY (formatXYN t x y n) = y :=
  (extractLsb'_append_low t (x ++ (y ++ n)) 4 4 (by decide)).trans
    ((extractLsb'_append_low x (y ++ n) 4 4 (by decide)).trans (extractLsb'_append_high y n))
@[simp] theorem fieldN_formatXYN (t : BitVec 4) (x y : Reg) (n : Nibble) : fieldN (formatXYN t x y n) = n :=
  (extractLsb'_append_low t (x ++ (y ++ n)) 0 4 (by decide)).trans
    ((extractLsb'_append_low x (y ++ n) 0 4 (by decide)).trans
      ((extractLsb'_append_low y n 0 4 (by decide)).trans (extractLsb'_all n)))


/-! ## A word's fields -/

theorem fieldNNN_eq (w : Word) : fieldNNN w = fieldX w ++ fieldKK w :=
  (BitVec.extractLsb'_append_extractLsb'_eq_extractLsb' (x := w) (start₁ := 0) (start₂ := 8) (len₁ := 8)
    (len₂ := 4) rfl).symm

theorem fieldKK_eq (w : Word) : fieldKK w = fieldY w ++ fieldN w :=
  (BitVec.extractLsb'_append_extractLsb'_eq_extractLsb' (x := w) (start₁ := 0) (start₂ := 4) (len₁ := 4)
    (len₂ := 4) rfl).symm

theorem formatNNN_fields (w : Word) : formatNNN (fieldT w) (fieldNNN w) = w :=
  (BitVec.extractLsb'_append_extractLsb'_eq_extractLsb' (x := w) rfl).trans (extractLsb'_all w)

theorem formatXKK_fields (w : Word) : formatXKK (fieldT w) (fieldX w) (fieldKK w) = w := by
  unfold formatXKK
  rw [← fieldNNN_eq]
  exact formatNNN_fields w

theorem formatXYN_fields (w : Word) : formatXYN (fieldT w) (fieldX w) (fieldY w) (fieldN w) = w := by
  unfold formatXYN
  rw [← fieldKK_eq]
  exact formatXKK_fields w

/-- Two words with the same four nibbles are the same. -/
theorem word_ext_fields {v w : Word} (ht : fieldT v = fieldT w) (hx : fieldX v = fieldX w)
    (hy : fieldY v = fieldY w) (hn : fieldN v = fieldN w) : v = w := by
  rw [← formatXYN_fields v, ← formatXYN_fields w, ht, hx, hy, hn]

/-- A masked comparison, nibble by nibble: what a row (`mask`, `match`) of the opcode map asks of a word (R95). -/
theorem and_beq_fields (w m v : Word) : (w &&& m == v) =
    ((fieldT w &&& fieldT m == fieldT v) && (fieldX w &&& fieldX m == fieldX v) &&
      (fieldY w &&& fieldY m == fieldY v) && (fieldN w &&& fieldN m == fieldN v)) := by
  have and_t : fieldT (w &&& m) = fieldT w &&& fieldT m := BitVec.extractLsb'_and
  have and_x : fieldX (w &&& m) = fieldX w &&& fieldX m := BitVec.extractLsb'_and
  have and_y : fieldY (w &&& m) = fieldY w &&& fieldY m := BitVec.extractLsb'_and
  have and_n : fieldN (w &&& m) = fieldN w &&& fieldN m := BitVec.extractLsb'_and
  rw [← and_t, ← and_x, ← and_y, ← and_n, Bool.eq_iff_iff]
  simp only [beq_iff_eq, Bool.and_eq_true]
  constructor
  · rintro rfl; exact ⟨⟨⟨rfl, rfl⟩, rfl⟩, rfl⟩
  · rintro ⟨⟨⟨ht, hx⟩, hy⟩, hn⟩; exact word_ext_fields ht hx hy hn

/-! ## The memory layout of an opcode -/

/-- The two bytes of an opcode, read back big-endian, are the opcode (20_memory.md R62). -/
theorem wordOfBytes_bytesOfWord (w : Word) : wordOfBytes (w.extractLsb' 8 8) (w.extractLsb' 0 8) = w :=
  (BitVec.extractLsb'_append_extractLsb'_eq_extractLsb' (x := w) (start₁ := 0) (start₂ := 8) (len₁ := 8)
    (len₂ := 8) rfl).trans (extractLsb'_all w)

end Sys2Proof
end

