-- ==== Sys2Proof/Laws/State.lean ====
section
/-! SUPPORT. What each plain update of the state does to each field: one lemma per field per update, true by rfl, so that no
later proof unfolds a record update; and what it does to the reads of registers and memory. -/

namespace Sys2Proof.Machine

section
variable (s : State)

/-! ### setV -/

@[simp] theorem State.setV_mem (x : Reg) (b : Byte) : (s.setV x b).mem = s.mem := rfl
@[simp] theorem State.setV_v (x : Reg) (b : Byte) : (s.setV x b).v = s.v.set x.toNat b x.isLt := rfl
@[simp] theorem State.setV_i (x : Reg) (b : Byte) : (s.setV x b).i = s.i := rfl
@[simp] theorem State.setV_pc (x : Reg) (b : Byte) : (s.setV x b).pc = s.pc := rfl
@[simp] theorem State.setV_stack (x : Reg) (b : Byte) : (s.setV x b).stack = s.stack := rfl
@[simp] theorem State.setV_sp (x : Reg) (b : Byte) : (s.setV x b).sp = s.sp := rfl
@[simp] theorem State.setV_dt (x : Reg) (b : Byte) : (s.setV x b).dt = s.dt := rfl
@[simp] theorem State.setV_st (x : Reg) (b : Byte) : (s.setV x b).st = s.st := rfl
@[simp] theorem State.setV_fb (x : Reg) (b : Byte) : (s.setV x b).fb = s.fb := rfl
@[simp] theorem State.setV_tone (x : Reg) (b : Byte) : (s.setV x b).tone = s.tone := rfl
@[simp] theorem State.setV_psize (x : Reg) (b : Byte) : (s.setV x b).psize = s.psize := rfl
@[simp] theorem State.setV_font (x : Reg) (b : Byte) : (s.setV x b).font = s.font := rfl
@[simp] theorem State.setV_events (x : Reg) (b : Byte) : (s.setV x b).events = s.events := rfl
@[simp] theorem State.setV_script (x : Reg) (b : Byte) : (s.setV x b).script = s.script := rfl
@[simp] theorem State.setV_inputs (x : Reg) (b : Byte) : (s.setV x b).inputs = s.inputs := rfl
@[simp] theorem State.setV_draws (x : Reg) (b : Byte) : (s.setV x b).draws = s.draws := rfl
@[simp] theorem State.setV_running (x : Reg) (b : Byte) : (s.setV x b).running = s.running := rfl
@[simp] theorem State.setV_result (x : Reg) (b : Byte) : (s.setV x b).result = s.result := rfl
@[simp] theorem State.setV_readByte (x : Reg) (b : Byte) (q' : Nat) : (s.setV x b).readByte q' = s.readByte q' := rfl

/-! ### setI -/

@[simp] theorem State.setI_mem (w : Word) : (s.setI w).mem = s.mem := rfl
@[simp] theorem State.setI_v (w : Word) : (s.setI w).v = s.v := rfl
@[simp] theorem State.setI_i (w : Word) : (s.setI w).i = w := rfl
@[simp] theorem State.setI_pc (w : Word) : (s.setI w).pc = s.pc := rfl
@[simp] theorem State.setI_stack (w : Word) : (s.setI w).stack = s.stack := rfl
@[simp] theorem State.setI_sp (w : Word) : (s.setI w).sp = s.sp := rfl
@[simp] theorem State.setI_dt (w : Word) : (s.setI w).dt = s.dt := rfl
@[simp] theorem State.setI_st (w : Word) : (s.setI w).st = s.st := rfl
@[simp] theorem State.setI_fb (w : Word) : (s.setI w).fb = s.fb := rfl
@[simp] theorem State.setI_tone (w : Word) : (s.setI w).tone = s.tone := rfl
@[simp] theorem State.setI_psize (w : Word) : (s.setI w).psize = s.psize := rfl
@[simp] theorem State.setI_font (w : Word) : (s.setI w).font = s.font := rfl
@[simp] theorem State.setI_events (w : Word) : (s.setI w).events = s.events := rfl
@[simp] theorem State.setI_script (w : Word) : (s.setI w).script = s.script := rfl
@[simp] theorem State.setI_inputs (w : Word) : (s.setI w).inputs = s.inputs := rfl
@[simp] theorem State.setI_draws (w : Word) : (s.setI w).draws = s.draws := rfl
@[simp] theorem State.setI_running (w : Word) : (s.setI w).running = s.running := rfl
@[simp] theorem State.setI_result (w : Word) : (s.setI w).result = s.result := rfl
@[simp] theorem State.setI_getV (w : Word) (r : Reg) : (s.setI w).getV r = s.getV r := rfl
@[simp] theorem State.setI_readByte (w : Word) (q' : Nat) : (s.setI w).readByte q' = s.readByte q' := rfl

/-! ### setPC -/

@[simp] theorem State.setPC_mem (w : Word) : (s.setPC w).mem = s.mem := rfl
@[simp] theorem State.setPC_v (w : Word) : (s.setPC w).v = s.v := rfl
@[simp] theorem State.setPC_i (w : Word) : (s.setPC w).i = s.i := rfl
@[simp] theorem State.setPC_pc (w : Word) : (s.setPC w).pc = w := rfl
@[simp] theorem State.setPC_stack (w : Word) : (s.setPC w).stack = s.stack := rfl
@[simp] theorem State.setPC_sp (w : Word) : (s.setPC w).sp = s.sp := rfl
@[simp] theorem State.setPC_dt (w : Word) : (s.setPC w).dt = s.dt := rfl
@[simp] theorem State.setPC_st (w : Word) : (s.setPC w).st = s.st := rfl
@[simp] theorem State.setPC_fb (w : Word) : (s.setPC w).fb = s.fb := rfl
@[simp] theorem State.setPC_tone (w : Word) : (s.setPC w).tone = s.tone := rfl
@[simp] theorem State.setPC_psize (w : Word) : (s.setPC w).psize = s.psize := rfl
@[simp] theorem State.setPC_font (w : Word) : (s.setPC w).font = s.font := rfl
@[simp] theorem State.setPC_events (w : Word) : (s.setPC w).events = s.events := rfl
@[simp] theorem State.setPC_script (w : Word) : (s.setPC w).script = s.script := rfl
@[simp] theorem State.setPC_inputs (w : Word) : (s.setPC w).inputs = s.inputs := rfl
@[simp] theorem State.setPC_draws (w : Word) : (s.setPC w).draws = s.draws := rfl
@[simp] theorem State.setPC_running (w : Word) : (s.setPC w).running = s.running := rfl
@[simp] theorem State.setPC_result (w : Word) : (s.setPC w).result = s.result := rfl
@[simp] theorem State.setPC_getV (w : Word) (r : Reg) : (s.setPC w).getV r = s.getV r := rfl
@[simp] theorem State.setPC_readByte (w : Word) (q' : Nat) : (s.setPC w).readByte q' = s.readByte q' := rfl

/-! ### advance -/

@[simp] theorem State.advance_mem : s.advance.mem = s.mem := rfl
@[simp] theorem State.advance_v : s.advance.v = s.v := rfl
@[simp] theorem State.advance_i : s.advance.i = s.i := rfl
@[simp] theorem State.advance_pc : s.advance.pc = s.pc + 2 := rfl
@[simp] theorem State.advance_stack : s.advance.stack = s.stack := rfl
@[simp] theorem State.advance_sp : s.advance.sp = s.sp := rfl
@[simp] theorem State.advance_dt : s.advance.dt = s.dt := rfl
@[simp] theorem State.advance_st : s.advance.st = s.st := rfl
@[simp] theorem State.advance_fb : s.advance.fb = s.fb := rfl
@[simp] theorem State.advance_tone : s.advance.tone = s.tone := rfl
@[simp] theorem State.advance_psize : s.advance.psize = s.psize := rfl
@[simp] theorem State.advance_font : s.advance.font = s.font := rfl
@[simp] theorem State.advance_events : s.advance.events = s.events := rfl
@[simp] theorem State.advance_script : s.advance.script = s.script := rfl
@[simp] theorem State.advance_inputs : s.advance.inputs = s.inputs := rfl
@[simp] theorem State.advance_draws : s.advance.draws = s.draws := rfl
@[simp] theorem State.advance_running : s.advance.running = s.running := rfl
@[simp] theorem State.advance_result : s.advance.result = s.result := rfl
@[simp] theorem State.advance_getV (r : Reg) : s.advance.getV r = s.getV r := rfl
@[simp] theorem State.advance_readByte (q' : Nat) : s.advance.readByte q' = s.readByte q' := rfl

/-! ### skipIf -/

@[simp] theorem State.skipIf_mem (c : Bool) : (s.skipIf c).mem = s.mem := rfl
@[simp] theorem State.skipIf_v (c : Bool) : (s.skipIf c).v = s.v := rfl
@[simp] theorem State.skipIf_i (c : Bool) : (s.skipIf c).i = s.i := rfl
@[simp] theorem State.skipIf_pc (c : Bool) : (s.skipIf c).pc = if c then s.pc + 4 else s.pc + 2 := rfl
@[simp] theorem State.skipIf_stack (c : Bool) : (s.skipIf c).stack = s.stack := rfl
@[simp] theorem State.skipIf_sp (c : Bool) : (s.skipIf c).sp = s.sp := rfl
@[simp] theorem State.skipIf_dt (c : Bool) : (s.skipIf c).dt = s.dt := rfl
@[simp] theorem State.skipIf_st (c : Bool) : (s.skipIf c).st = s.st := rfl
@[simp] theorem State.skipIf_fb (c : Bool) : (s.skipIf c).fb = s.fb := rfl
@[simp] theorem State.skipIf_tone (c : Bool) : (s.skipIf c).tone = s.tone := rfl
@[simp] theorem State.skipIf_psize (c : Bool) : (s.skipIf c).psize = s.psize := rfl
@[simp] theorem State.skipIf_font (c : Bool) : (s.skipIf c).font = s.font := rfl
@[simp] theorem State.skipIf_events (c : Bool) : (s.skipIf c).events = s.events := rfl
@[simp] theorem State.skipIf_script (c : Bool) : (s.skipIf c).script = s.script := rfl
@[simp] theorem State.skipIf_inputs (c : Bool) : (s.skipIf c).inputs = s.inputs := rfl
@[simp] theorem State.skipIf_draws (c : Bool) : (s.skipIf c).draws = s.draws := rfl
@[simp] theorem State.skipIf_running (c : Bool) : (s.skipIf c).running = s.running := rfl
@[simp] theorem State.skipIf_result (c : Bool) : (s.skipIf c).result = s.result := rfl
@[simp] theorem State.skipIf_getV (c : Bool) (r : Reg) : (s.skipIf c).getV r = s.getV r := rfl
@[simp] theorem State.skipIf_readByte (c : Bool) (q' : Nat) : (s.skipIf c).readByte q' = s.readByte q' := rfl

/-! ### setDT -/

@[simp] theorem State.setDT_mem (b : Byte) : (s.setDT b).mem = s.mem := rfl
@[simp] theorem State.setDT_v (b : Byte) : (s.setDT b).v = s.v := rfl
@[simp] theorem State.setDT_i (b : Byte) : (s.setDT b).i = s.i := rfl
@[simp] theorem State.setDT_pc (b : Byte) : (s.setDT b).pc = s.pc := rfl
@[simp] theorem State.setDT_stack (b : Byte) : (s.setDT b).stack = s.stack := rfl
@[simp] theorem State.setDT_sp (b : Byte) : (s.setDT b).sp = s.sp := rfl
@[simp] theorem State.setDT_dt (b : Byte) : (s.setDT b).dt = b := rfl
@[simp] theorem State.setDT_st (b : Byte) : (s.setDT b).st = s.st := rfl
@[simp] theorem State.setDT_fb (b : Byte) : (s.setDT b).fb = s.fb := rfl
@[simp] theorem State.setDT_tone (b : Byte) : (s.setDT b).tone = s.tone := rfl
@[simp] theorem State.setDT_psize (b : Byte) : (s.setDT b).psize = s.psize := rfl
@[simp] theorem State.setDT_font (b : Byte) : (s.setDT b).font = s.font := rfl
@[simp] theorem State.setDT_events (b : Byte) : (s.setDT b).events = s.events := rfl
@[simp] theorem State.setDT_script (b : Byte) : (s.setDT b).script = s.script := rfl
@[simp] theorem State.setDT_inputs (b : Byte) : (s.setDT b).inputs = s.inputs := rfl
@[simp] theorem State.setDT_draws (b : Byte) : (s.setDT b).draws = s.draws := rfl
@[simp] theorem State.setDT_running (b : Byte) : (s.setDT b).running = s.running := rfl
@[simp] theorem State.setDT_result (b : Byte) : (s.setDT b).result = s.result := rfl
@[simp] theorem State.setDT_getV (b : Byte) (r : Reg) : (s.setDT b).getV r = s.getV r := rfl
@[simp] theorem State.setDT_readByte (b : Byte) (q' : Nat) : (s.setDT b).readByte q' = s.readByte q' := rfl

/-! ### setFB -/

@[simp] theorem State.setFB_mem (g : Framebuffer) : (s.setFB g).mem = s.mem := rfl
@[simp] theorem State.setFB_v (g : Framebuffer) : (s.setFB g).v = s.v := rfl
@[simp] theorem State.setFB_i (g : Framebuffer) : (s.setFB g).i = s.i := rfl
@[simp] theorem State.setFB_pc (g : Framebuffer) : (s.setFB g).pc = s.pc := rfl
@[simp] theorem State.setFB_stack (g : Framebuffer) : (s.setFB g).stack = s.stack := rfl
@[simp] theorem State.setFB_sp (g : Framebuffer) : (s.setFB g).sp = s.sp := rfl
@[simp] theorem State.setFB_dt (g : Framebuffer) : (s.setFB g).dt = s.dt := rfl
@[simp] theorem State.setFB_st (g : Framebuffer) : (s.setFB g).st = s.st := rfl
@[simp] theorem State.setFB_fb (g : Framebuffer) : (s.setFB g).fb = g := rfl
@[simp] theorem State.setFB_tone (g : Framebuffer) : (s.setFB g).tone = s.tone := rfl
@[simp] theorem State.setFB_psize (g : Framebuffer) : (s.setFB g).psize = s.psize := rfl
@[simp] theorem State.setFB_font (g : Framebuffer) : (s.setFB g).font = s.font := rfl
@[simp] theorem State.setFB_events (g : Framebuffer) : (s.setFB g).events = s.events := rfl
@[simp] theorem State.setFB_script (g : Framebuffer) : (s.setFB g).script = s.script := rfl
@[simp] theorem State.setFB_inputs (g : Framebuffer) : (s.setFB g).inputs = s.inputs := rfl
@[simp] theorem State.setFB_draws (g : Framebuffer) : (s.setFB g).draws = s.draws := rfl
@[simp] theorem State.setFB_running (g : Framebuffer) : (s.setFB g).running = s.running := rfl
@[simp] theorem State.setFB_result (g : Framebuffer) : (s.setFB g).result = s.result := rfl
@[simp] theorem State.setFB_getV (g : Framebuffer) (r : Reg) : (s.setFB g).getV r = s.getV r := rfl
@[simp] theorem State.setFB_readByte (g : Framebuffer) (q' : Nat) : (s.setFB g).readByte q' = s.readByte q' := rfl

/-! ### emit -/

@[simp] theorem State.emit_mem (e : Event) : (s.emit e).mem = s.mem := rfl
@[simp] theorem State.emit_v (e : Event) : (s.emit e).v = s.v := rfl
@[simp] theorem State.emit_i (e : Event) : (s.emit e).i = s.i := rfl
@[simp] theorem State.emit_pc (e : Event) : (s.emit e).pc = s.pc := rfl
@[simp] theorem State.emit_stack (e : Event) : (s.emit e).stack = s.stack := rfl
@[simp] theorem State.emit_sp (e : Event) : (s.emit e).sp = s.sp := rfl
@[simp] theorem State.emit_dt (e : Event) : (s.emit e).dt = s.dt := rfl
@[simp] theorem State.emit_st (e : Event) : (s.emit e).st = s.st := rfl
@[simp] theorem State.emit_fb (e : Event) : (s.emit e).fb = s.fb := rfl
@[simp] theorem State.emit_tone (e : Event) : (s.emit e).tone = s.tone := rfl
@[simp] theorem State.emit_psize (e : Event) : (s.emit e).psize = s.psize := rfl
@[simp] theorem State.emit_font (e : Event) : (s.emit e).font = s.font := rfl
@[simp] theorem State.emit_events (e : Event) : (s.emit e).events = s.events ++ [e] := rfl
@[simp] theorem State.emit_script (e : Event) : (s.emit e).script = s.script := rfl
@[simp] theorem State.emit_inputs (e : Event) : (s.emit e).inputs = s.inputs := rfl
@[simp] theorem State.emit_draws (e : Event) : (s.emit e).draws = s.draws := rfl
@[simp] theorem State.emit_running (e : Event) : (s.emit e).running = s.running := rfl
@[simp] theorem State.emit_result (e : Event) : (s.emit e).result = s.result := rfl
@[simp] theorem State.emit_getV (e : Event) (r : Reg) : (s.emit e).getV r = s.getV r := rfl
@[simp] theorem State.emit_readByte (e : Event) (q' : Nat) : (s.emit e).readByte q' = s.readByte q' := rfl

/-! ### present -/

@[simp] theorem State.present_mem : s.present.mem = s.mem := rfl
@[simp] theorem State.present_v : s.present.v = s.v := rfl
@[simp] theorem State.present_i : s.present.i = s.i := rfl
@[simp] theorem State.present_pc : s.present.pc = s.pc := rfl
@[simp] theorem State.present_stack : s.present.stack = s.stack := rfl
@[simp] theorem State.present_sp : s.present.sp = s.sp := rfl
@[simp] theorem State.present_dt : s.present.dt = s.dt := rfl
@[simp] theorem State.present_st : s.present.st = s.st := rfl
@[simp] theorem State.present_fb : s.present.fb = s.fb := rfl
@[simp] theorem State.present_tone : s.present.tone = s.tone := rfl
@[simp] theorem State.present_psize : s.present.psize = s.psize := rfl
@[simp] theorem State.present_font : s.present.font = s.font := rfl
@[simp] theorem State.present_events : s.present.events = s.events ++ [.present s.fb] := rfl
@[simp] theorem State.present_script : s.present.script = s.script := rfl
@[simp] theorem State.present_inputs : s.present.inputs = s.inputs := rfl
@[simp] theorem State.present_draws : s.present.draws = s.draws := rfl
@[simp] theorem State.present_running : s.present.running = s.running := rfl
@[simp] theorem State.present_result : s.present.result = s.result := rfl
@[simp] theorem State.present_getV (r : Reg) : s.present.getV r = s.getV r := rfl
@[simp] theorem State.present_readByte (q' : Nat) : s.present.readByte q' = s.readByte q' := rfl

/-! ### writeBytes -/

@[simp] theorem State.writeBytes_mem (a : Nat) (bs : List Byte) : (s.writeBytes a bs).mem = s.mem.writeBytes s.font a bs := rfl
@[simp] theorem State.writeBytes_v (a : Nat) (bs : List Byte) : (s.writeBytes a bs).v = s.v := rfl
@[simp] theorem State.writeBytes_i (a : Nat) (bs : List Byte) : (s.writeBytes a bs).i = s.i := rfl
@[simp] theorem State.writeBytes_pc (a : Nat) (bs : List Byte) : (s.writeBytes a bs).pc = s.pc := rfl
@[simp] theorem State.writeBytes_stack (a : Nat) (bs : List Byte) : (s.writeBytes a bs).stack = s.stack := rfl
@[simp] theorem State.writeBytes_sp (a : Nat) (bs : List Byte) : (s.writeBytes a bs).sp = s.sp := rfl
@[simp] theorem State.writeBytes_dt (a : Nat) (bs : List Byte) : (s.writeBytes a bs).dt = s.dt := rfl
@[simp] theorem State.writeBytes_st (a : Nat) (bs : List Byte) : (s.writeBytes a bs).st = s.st := rfl
@[simp] theorem State.writeBytes_fb (a : Nat) (bs : List Byte) : (s.writeBytes a bs).fb = s.fb := rfl
@[simp] theorem State.writeBytes_tone (a : Nat) (bs : List Byte) : (s.writeBytes a bs).tone = s.tone := rfl
@[simp] theorem State.writeBytes_psize (a : Nat) (bs : List Byte) : (s.writeBytes a bs).psize = s.psize := rfl
@[simp] theorem State.writeBytes_font (a : Nat) (bs : List Byte) : (s.writeBytes a bs).font = s.font := rfl
@[simp] theorem State.writeBytes_events (a : Nat) (bs : List Byte) : (s.writeBytes a bs).events = s.events := rfl
@[simp] theorem State.writeBytes_script (a : Nat) (bs : List Byte) : (s.writeBytes a bs).script = s.script := rfl
@[simp] theorem State.writeBytes_inputs (a : Nat) (bs : List Byte) : (s.writeBytes a bs).inputs = s.inputs := rfl
@[simp] theorem State.writeBytes_draws (a : Nat) (bs : List Byte) : (s.writeBytes a bs).draws = s.draws := rfl
@[simp] theorem State.writeBytes_running (a : Nat) (bs : List Byte) : (s.writeBytes a bs).running = s.running := rfl
@[simp] theorem State.writeBytes_result (a : Nat) (bs : List Byte) : (s.writeBytes a bs).result = s.result := rfl
@[simp] theorem State.writeBytes_getV (a : Nat) (bs : List Byte) (r : Reg) : (s.writeBytes a bs).getV r = s.getV r := rfl

/-! ### beginStep -/

@[simp] theorem State.beginStep_mem (q : Option StepInputs) (rest : List HostOp) : (s.beginStep q rest).mem = s.mem := rfl
@[simp] theorem State.beginStep_v (q : Option StepInputs) (rest : List HostOp) : (s.beginStep q rest).v = s.v := rfl
@[simp] theorem State.beginStep_i (q : Option StepInputs) (rest : List HostOp) : (s.beginStep q rest).i = s.i := rfl
@[simp] theorem State.beginStep_pc (q : Option StepInputs) (rest : List HostOp) : (s.beginStep q rest).pc = s.pc := rfl
@[simp] theorem State.beginStep_stack (q : Option StepInputs) (rest : List HostOp) : (s.beginStep q rest).stack = s.stack := rfl
@[simp] theorem State.beginStep_sp (q : Option StepInputs) (rest : List HostOp) : (s.beginStep q rest).sp = s.sp := rfl
@[simp] theorem State.beginStep_dt (q : Option StepInputs) (rest : List HostOp) : (s.beginStep q rest).dt = s.dt := rfl
@[simp] theorem State.beginStep_st (q : Option StepInputs) (rest : List HostOp) : (s.beginStep q rest).st = s.st := rfl
@[simp] theorem State.beginStep_fb (q : Option StepInputs) (rest : List HostOp) : (s.beginStep q rest).fb = s.fb := rfl
@[simp] theorem State.beginStep_tone (q : Option StepInputs) (rest : List HostOp) : (s.beginStep q rest).tone = s.tone := rfl
@[simp] theorem State.beginStep_psize (q : Option StepInputs) (rest : List HostOp) : (s.beginStep q rest).psize = s.psize := rfl
@[simp] theorem State.beginStep_font (q : Option StepInputs) (rest : List HostOp) : (s.beginStep q rest).font = s.font := rfl
@[simp] theorem State.beginStep_events (q : Option StepInputs) (rest : List HostOp) : (s.beginStep q rest).events = s.events := rfl
@[simp] theorem State.beginStep_script (q : Option StepInputs) (rest : List HostOp) : (s.beginStep q rest).script = rest := rfl
@[simp] theorem State.beginStep_inputs (q : Option StepInputs) (rest : List HostOp) : (s.beginStep q rest).inputs = q := rfl
@[simp] theorem State.beginStep_draws (q : Option StepInputs) (rest : List HostOp) : (s.beginStep q rest).draws = s.draws + 1 := rfl
@[simp] theorem State.beginStep_running (q : Option StepInputs) (rest : List HostOp) : (s.beginStep q rest).running = s.running := rfl
@[simp] theorem State.beginStep_result (q : Option StepInputs) (rest : List HostOp) : (s.beginStep q rest).result = none := rfl
@[simp] theorem State.beginStep_getV (q : Option StepInputs) (rest : List HostOp) (r : Reg) : (s.beginStep q rest).getV r = s.getV r := rfl
@[simp] theorem State.beginStep_readByte (q : Option StepInputs) (rest : List HostOp) (q' : Nat) : (s.beginStep q rest).readByte q' = s.readByte q' := rfl

/-! ### stop -/

@[simp] theorem State.stop_mem : s.stop.mem = s.mem := rfl
@[simp] theorem State.stop_v : s.stop.v = s.v := rfl
@[simp] theorem State.stop_i : s.stop.i = s.i := rfl
@[simp] theorem State.stop_pc : s.stop.pc = s.pc := rfl
@[simp] theorem State.stop_stack : s.stop.stack = s.stack := rfl
@[simp] theorem State.stop_sp : s.stop.sp = s.sp := rfl
@[simp] theorem State.stop_dt : s.stop.dt = s.dt := rfl
@[simp] theorem State.stop_st : s.stop.st = s.st := rfl
@[simp] theorem State.stop_fb : s.stop.fb = s.fb := rfl
@[simp] theorem State.stop_tone : s.stop.tone = s.tone := rfl
@[simp] theorem State.stop_psize : s.stop.psize = s.psize := rfl
@[simp] theorem State.stop_font : s.stop.font = s.font := rfl
@[simp] theorem State.stop_events : s.stop.events = s.events := rfl
@[simp] theorem State.stop_script : s.stop.script = s.script := rfl
@[simp] theorem State.stop_inputs : s.stop.inputs = s.inputs := rfl
@[simp] theorem State.stop_draws : s.stop.draws = s.draws := rfl
@[simp] theorem State.stop_running : s.stop.running = false := rfl
@[simp] theorem State.stop_result : s.stop.result = s.result := rfl
@[simp] theorem State.stop_getV (r : Reg) : s.stop.getV r = s.getV r := rfl
@[simp] theorem State.stop_readByte (q' : Nat) : s.stop.readByte q' = s.readByte q' := rfl

end

end Sys2Proof.Machine
end

