-- ==== Sys2Proof/Laws/Memory.lean ====
section
/-! SUPPORT. Memory: the read after a write, and the canonical form that every write keeps (20_memory.md R61, R66, R70). -/

namespace Sys2Proof.Machine

/-! ## Read after write, on every list -/

theorem Memory.find_remove (a q : Nat) : ∀ m : Memory,
    Memory.find (m.remove a) q = if q = a then none else Memory.find m q
  | [] => by simp [Memory.remove, Memory.find]
  | (a', b') :: m => by
    have ih := Memory.find_remove a q m
    by_cases h1 : a' = a <;> by_cases h2 : a' = q <;> by_cases h3 : q = a <;>
      simp_all [Memory.remove, Memory.find]

theorem Memory.find_insert {a q : Nat} {b : Byte} : ∀ {m : Memory}, Memory.find m a = none →
    Memory.find (m.insert a b) q = if q = a then some b else Memory.find m q
  | [], _ => by simp [Memory.insert, Memory.find, eq_comm]
  | (a', b') :: m, h => by
    have ne : a' ≠ a := by rintro rfl; simp [Memory.find] at h
    have ih : Memory.find (Memory.insert m a b) q = _ :=
      Memory.find_insert (by simpa [Memory.find, ne] using h)
    unfold Memory.insert
    split
    · simp [Memory.find, eq_comm]
    · by_cases h2 : a' = q
      · subst h2; simp [Memory.find, ne]
      · simp [Memory.find, h2, ih]

/-- What a write does to every read (R61, R66): the byte written where the addresses agree mod 4096, the old byte
elsewhere. -/
theorem Memory.read_write (font : Font) (m : Memory) (a q : Nat) (b : Byte) :
    (m.write font a b).read font q = if q % 4096 = a % 4096 then b else m.read font q := by
  have hn : Memory.find (m.remove (a % 4096)) (a % 4096) = none := by simp [Memory.find_remove]
  unfold Memory.read Memory.write Memory.put
  by_cases hq : q % 4096 = a % 4096
  · split <;> simp_all [Memory.find_remove, Memory.find_insert hn]
  · split <;> simp_all [Memory.find_remove, Memory.find_insert hn]

theorem Memory.read_mod (font : Font) (m : Memory) (a : Nat) : m.read font (a % 4096) = m.read font a := by
  simp [Memory.read]

/-- What a run of at most 4096 writes does to a byte it stores. -/
theorem Memory.read_writeBytes_mem (font : Font) : ∀ (m : Memory) (a : Nat) (bs : List Byte) (k : Nat) (h : k < bs.length),
    bs.length ≤ 4096 → (m.writeBytes font a bs).read font (a + k) = bs[k] := by
  intro m a bs
  induction bs generalizing m a with
  | nil => intro k h; simp at h
  | cons b bs ih =>
    intro k h hl
    simp only [List.length_cons] at h hl
    cases k with
    | zero =>
      rw [Memory.writeBytes]
      have keep : ∀ (bs : List Byte) (m : Memory) (c : Nat), c ≤ a + 4096 - bs.length → a < c →
          (m.writeBytes font c bs).read font a = m.read font a := by
        intro bs
        induction bs with
        | nil => intros; rfl
        | cons d ds ihd =>
          intro m c hc hlt
          simp only [List.length_cons] at hc
          rw [Memory.writeBytes, ihd _ _ (by omega) (by omega), Memory.read_write, if_neg (by omega)]
      have := keep bs (m.write font a b) (a + 1) (by omega) (by omega)
      simpa [Memory.read_write] using this
    | succ k =>
      rw [Memory.writeBytes]
      have := ih (m.write font a b) (a + 1) k (by omega) (by omega)
      simpa [Nat.add_assoc, Nat.add_comm 1 k] using this

/-- A run of writes leaves every byte outside it as it was. -/
theorem Memory.read_writeBytes_other (font : Font) : ∀ (m : Memory) (a : Nat) (bs : List Byte) (q : Nat),
    (∀ k < bs.length, q % 4096 ≠ (a + k) % 4096) → (m.writeBytes font a bs).read font q = m.read font q := by
  intro m a bs
  induction bs generalizing m a with
  | nil => intros; rfl
  | cons b bs ih =>
    intro q h
    rw [Memory.writeBytes, ih _ _ _ (fun k hk => ?_), Memory.read_write, if_neg]
    · simpa using h 0 (by simp)
    · have := h (k + 1) (by simp; omega)
      rwa [Nat.add_assoc, Nat.add_comm 1 k]

/-! ## The canonical form -/

theorem Memory.wfFrom_cons {font : Font} {lo a : Nat} {b : Byte} {m : Memory} :
    Memory.wfFrom font lo ((a, b) :: m) = true ↔
      lo ≤ a ∧ a < 4096 ∧ b ≠ Memory.initial font a ∧ Memory.wfFrom font (a + 1) m = true := by
  simp only [Memory.wfFrom, Bool.and_eq_true, decide_eq_true_eq, and_assoc]

/-- A canonical list above `lo` is canonical above anything lower. -/
theorem Memory.wfFrom_mono {font : Font} {lo lo' : Nat} (h : lo' ≤ lo) :
    ∀ {m : Memory}, Memory.wfFrom font lo m = true → Memory.wfFrom font lo' m = true
  | [], _ => rfl
  | (_, _) :: _, hm => by
    rw [Memory.wfFrom_cons] at hm ⊢
    exact ⟨h.trans hm.1, hm.2⟩

theorem Memory.wfFrom_remove {font : Font} (a : Nat) : ∀ {lo : Nat} {m : Memory}, Memory.wfFrom font lo m = true →
    Memory.wfFrom font lo (m.remove a) = true
  | _, [], _ => rfl
  | lo, (a', b') :: m, hm => by
    obtain ⟨h1, h2, h3, h4⟩ := Memory.wfFrom_cons.mp hm
    unfold Memory.remove
    split
    · exact Memory.wfFrom_mono (by omega) (Memory.wfFrom_remove a h4)
    · rw [Memory.wfFrom_cons]; exact ⟨h1, h2, h3, Memory.wfFrom_remove a h4⟩

theorem Memory.wfFrom_insert {font : Font} {a : Nat} {b : Byte} (ha : a < 4096) (hb : b ≠ Memory.initial font a) :
    ∀ {lo : Nat} {m : Memory}, lo ≤ a → Memory.wfFrom font lo m = true → Memory.find m a = none →
      Memory.wfFrom font lo (m.insert a b) = true
  | lo, [], hlo, _, _ => by
    unfold Memory.insert; rw [Memory.wfFrom_cons]; exact ⟨hlo, ha, hb, rfl⟩
  | lo, (a', b') :: m, hlo, hm, hf => by
    obtain ⟨h1, h2, h3, h4⟩ := Memory.wfFrom_cons.mp hm
    have ne : a' ≠ a := by rintro rfl; simp [Memory.find] at hf
    unfold Memory.insert
    split
    · rw [Memory.wfFrom_cons, Memory.wfFrom_cons]; exact ⟨hlo, ha, hb, by omega, h2, h3, h4⟩
    · rw [Memory.wfFrom_cons]
      exact ⟨h1, h2, h3, Memory.wfFrom_insert ha hb (by omega) h4 (by simpa [Memory.find, ne] using hf)⟩

/-- One write keeps the canonical form. -/
theorem Memory.wf_write {font : Font} {m : Memory} (h : m.wf font = true) (a : Nat) (b : Byte) : (m.write font a b).wf font = true := by
  unfold Memory.write Memory.put
  split
  · exact Memory.wfFrom_remove _ h
  · exact Memory.wfFrom_insert (Nat.mod_lt _ (by decide)) ‹_› (Nat.zero_le _) (Memory.wfFrom_remove _ h)
      (by simp [Memory.find_remove])

/-- A run of writes keeps the canonical form. -/
theorem Memory.wf_writeBytes {font : Font} : ∀ {m : Memory} (_ : m.wf font = true) (a : Nat) (bs : List Byte),
    (m.writeBytes font a bs).wf font = true
  | _, h, _, [] => h
  | _, h, a, b :: bs => Memory.wf_writeBytes (Memory.wf_write h a b) (a + 1) bs

/-- Reset memory is canonical. -/
theorem Memory.reset_wf : State.reset.mem.wf font = true := rfl

/-- A canonical list above `lo` lists nothing below `lo`. -/
theorem Memory.find_below {font : Font} {a : Nat} : ∀ {lo : Nat} {m : Memory}, Memory.wfFrom font lo m = true → a < lo →
    Memory.find m a = none
  | _, [], _, _ => rfl
  | _, (a', _) :: _, hm, h => by
    obtain ⟨h1, _, _, h4⟩ := Memory.wfFrom_cons.mp hm
    unfold Memory.find
    rw [if_neg (by omega)]
    exact Memory.find_below h4 (by omega)

/-! ## The state's reads -/

theorem State.readByte_mod (s : State) (a : Nat) : s.readByte (a % 4096) = s.readByte a :=
  Memory.read_mod _ _ _

theorem State.readByte_writeBytes_other (s : State) (a : Nat) (bs : List Byte) (q : Nat)
    (h : ∀ k < bs.length, q % 4096 ≠ (a + k) % 4096) : (s.writeBytes a bs).readByte q = s.readByte q :=
  Memory.read_writeBytes_other _ _ _ _ _ h

theorem State.readByte_writeBytes_mem (s : State) (a : Nat) (bs : List Byte) (k : Nat) (h : k < bs.length)
    (hl : bs.length ≤ 4096) : (s.writeBytes a bs).readByte (a + k) = bs[k] :=
  Memory.read_writeBytes_mem _ _ _ _ _ h hl

end Sys2Proof.Machine
end

