-- ==== Sys2Proof/Laws/Operations.lean ====
section
/-! SUPPORT. One lemma for each shared operation that says everything it can do: registers, the call stack, the audio gate,
register lists, key tests, and the host's operations. -/

namespace Sys2Proof.Machine

/-! ## Registers -/

/-- `V[x] <- b` changes `V[x]` and no other register (10_state.md R23). -/
theorem State.getV_setV (s : State) (x r : Reg) (b : Byte) :
    (s.setV x b).getV r = if r = x then b else s.getV r := by
  unfold State.getV State.setV
  simp only [Vector.getElem_set, BitVec.toNat_inj]
  by_cases h : r = x
  · simp [h]
  · simp [h, Ne.symm h]

@[simp] theorem State.getV_setV_same (s : State) (x : Reg) (b : Byte) : (s.setV x b).getV x = b := by
  simp [State.getV_setV]

theorem State.getV_setV_ne (s : State) {x r : Reg} (b : Byte) (h : r ≠ x) : (s.setV x b).getV r = s.getV r := by
  simp [State.getV_setV, h]

/-- The result to `Vx` and the flag to `VF`, the flag last (42_load_alu.md R150). -/
theorem State.getV_setVF (s : State) (x r : Reg) (res flag : Byte) :
    (s.setVF x res flag).getV r = if r = vF then flag else if r = x then res else s.getV r := by
  simp [State.setVF, State.getV_setV]

/-- `setVF` touches nothing but the registers. -/
theorem State.setVF_eq (s : State) (x : Reg) (res flag : Byte) :
    s.setVF x res flag = { s with v := (s.setVF x res flag).v } := rfl

/-! ## The call stack -/

/-- A push succeeds exactly when the stack is not full, and then stores the word at `SP` (10_state.md R28). -/
theorem State.push?_eq_some {s t : State} {w : Word} :
    s.push? w = some t ↔ ∃ h : s.sp.val < 16,
      t = { s with stack := s.stack.set s.sp.val w h, sp := ⟨s.sp.val + 1, Nat.succ_lt_succ h⟩ } := by
  unfold State.push?
  split <;> simp_all [eq_comm]

theorem State.push?_eq_none {s : State} {w : Word} : s.push? w = none ↔ s.sp.val = 16 := by
  unfold State.push?
  have := s.sp.isLt
  split
  · simp; omega
  · simp; omega

/-- A pop succeeds exactly when the stack is not empty, and then reads the entry below `SP` and clears nothing (R27, R28). -/
theorem State.pop?_eq_some {s t : State} {w : Word} :
    s.pop? = some (w, t) ↔ ∃ (_ : 0 < s.sp.val) (h : s.sp.val - 1 < 16) (h' : s.sp.val - 1 < 17),
      w = s.stack[s.sp.val - 1] ∧ t = { s with sp := ⟨s.sp.val - 1, h'⟩ } := by
  have := s.sp.isLt
  unfold State.pop?
  split
  · simp only [Option.some.injEq, Prod.mk.injEq]
    constructor
    · rintro ⟨rfl, rfl⟩; exact ⟨‹_›, by omega, by omega, rfl, rfl⟩
    · rintro ⟨_, _, _, rfl, rfl⟩; exact ⟨rfl, rfl⟩
  · simp_all

theorem State.pop?_eq_none {s : State} : s.pop? = none ↔ s.sp.val = 0 := by
  unfold State.pop?
  split
  · simp only [reduceCtorEq, false_iff]; omega
  · simp only [true_iff]; omega

/-! ## The audio gate -/

/-- `SetST` in full (10_state.md R32): `ST`, the gate's level, and the one event of a change between zero and nonzero. -/
theorem State.setST_eq (s : State) (b : Byte) : s.setST b = { s with
    st := b
    tone := if s.st = 0 ∧ b ≠ 0 then true else if s.st ≠ 0 ∧ b = 0 then false else s.tone
    events := s.events ++
      (if s.st = 0 ∧ b ≠ 0 then [.setTone true] else if s.st ≠ 0 ∧ b = 0 then [.setTone false] else []) } := by
  unfold State.setST
  split
  · rfl
  · split
    · rfl
    · simp

/-- `SetST` keeps the gate in step with `ST` (R38). -/
theorem State.setST_gate {s : State} (b : Byte) (h : s.tone = true ↔ s.st ≠ 0) :
    (s.setST b).tone = true ↔ (s.setST b).st ≠ 0 := by
  rw [State.setST_eq]
  by_cases h0 : s.st = 0 <;> by_cases hb : b = 0 <;> simp_all

/-! ## Register lists -/

@[simp] theorem State.length_regsUpTo (s : State) (x : Reg) : (s.regsUpTo x).length = x.toNat + 1 := by
  simp [State.regsUpTo]

theorem State.getElem_regsUpTo (s : State) (x : Reg) (k : Nat) (h : k < (s.regsUpTo x).length) :
    (s.regsUpTo x)[k] = s.getV (BitVec.ofNat 4 k) := by
  simp [State.regsUpTo, State.getVAt]

@[simp] theorem State.length_bytesAtI (s : State) (n : Nat) : (s.bytesAtI n).length = n := by
  simp [State.bytesAtI]

theorem State.getElem_bytesAtI (s : State) (n k : Nat) (h : k < (s.bytesAtI n).length) :
    (s.bytesAtI n)[k] = s.readByte (s.i.toNat + k) := by
  simp [State.bytesAtI, State.indexAddress]

/-- Loading registers touches nothing but the registers. -/
theorem State.loadRegs_eq : ∀ (bs : List Byte) (s : State) (k : Nat),
    s.loadRegs k bs = { s with v := (s.loadRegs k bs).v }
  | [], _, _ => rfl
  | b :: bs, s, k => by
    have := State.loadRegs_eq bs (s.setV (BitVec.ofNat 4 k) b) (k + 1)
    rw [State.loadRegs, this]; rfl

/-- What loading the registers `k, k+1, …` leaves in each register. -/
theorem State.getV_loadRegs : ∀ (bs : List Byte) (s : State) (k : Nat) (_ : k + bs.length ≤ 16) (r : Reg),
    (s.loadRegs k bs).getV r =
      if h : k ≤ r.toNat ∧ r.toNat < k + bs.length then bs[r.toNat - k]'(by omega) else s.getV r
  | [], s, k, _, r => by
    rw [dif_neg (by simp)]; rfl
  | b :: bs, s, k, hk, r => by
    simp only [List.length_cons] at hk
    rw [State.loadRegs, State.getV_loadRegs bs _ _ (by omega) r]
    by_cases h1 : k + 1 ≤ r.toNat ∧ r.toNat < k + 1 + bs.length
    · rw [dif_pos h1, dif_pos (by simp; omega)]
      have : r.toNat - k = r.toNat - (k + 1) + 1 := by omega
      simp [this]
    · rw [dif_neg h1, State.getV_setV]
      have hk16 : (BitVec.ofNat 4 k).toNat = k := by simp; omega
      by_cases h2 : r.toNat = k
      · have : r = BitVec.ofNat 4 k := BitVec.eq_of_toNat_eq (by rw [hk16]; exact h2)
        rw [if_pos this, dif_pos (by simp; omega)]
        simp [h2]
      · have : r ≠ BitVec.ofNat 4 k := fun h => h2 (by rw [h, hk16])
        rw [if_neg this, dif_neg (by simp; omega)]

/-! ## Key tests -/

/-- A key index in range is never refused: the level of that key is tested (45_keypad_timers.md R201). -/
theorem State.keyTest_inRange {s : State} {k : Byte} (h : k.toNat ≤ 15) :
    s.keyTest k = .ok (s.keyLevel (k.setWidth 4)) := by
  simp [State.keyTest, h]

/-! ## The host's operations -/

/-- `LoadProgram` goes on in exactly one way (70_reset_and_hazards.md R251, R252). -/
theorem loadProgram_eq_next {bytes : List Byte} {s t : State} : loadProgram bytes s = .next t ↔
    bytes.length ≤ 3584 ∧ s.inRun = false ∧ t = { s.writeBytes 0x200 bytes with psize := bytes.length, running := false } := by
  unfold loadProgram
  split
  · rename_i h
    exact ⟨nofun, fun h' => absurd h'.1 (Nat.not_le.mpr h)⟩
  · rename_i h
    split
    · rename_i hr
      exact ⟨nofun, fun h' => by rw [hr] at h'; exact absurd h'.2.1 nofun⟩
    · rename_i hr
      constructor
      · intro h'; cases h'; exact ⟨Nat.not_lt.mp h, by simpa using hr, rfl⟩
      · rintro ⟨-, -, rfl⟩; rfl

theorem State.timerTick_eq (s : State) : s.timerTick =
    if s.st = 0 then s.setDT (countDown s.dt) else (s.setDT (countDown s.dt)).setST (s.st - 1) := rfl

/-- `RunEntry` field by field (70_reset_and_hazards.md R253). -/
theorem State.runEntry_eq (s : State) : s.runEntry = { s with
    pc := 0x200, sp := 0, dt := 0, st := 0, i := 0, fb := Framebuffer.clear, running := true
    tone := if s.st = 0 then s.tone else false
    events := s.events ++ (if s.st = 0 then [] else [.setTone false]) ++ [.present Framebuffer.clear] } := by
  unfold State.runEntry
  simp only [State.setST_eq]
  by_cases h : s.st = 0 <;> simp [h, State.setI, State.setFB, State.present, State.emit]

end Sys2Proof.Machine
end

