-- ==== Sys2Proof/Laws/Display.lean ====
section
/-! SUPPORT. The framebuffer: what one pixel write, one sprite bit and one sprite row do to every pixel and to the collision
flag (44_display.md R186). -/

namespace Sys2Proof.Machine

/-- A pixel write changes that pixel and no other. -/
theorem Framebuffer.pixel_setPixel (fb : Framebuffer) (r c r' c' : Nat) (on : Bool) :
    (fb.setPixel r c on).pixel r' c' =
      if r' % 32 = r % 32 ∧ c' % 64 = c % 64 then on else fb.pixel r' c' := by
  have hc : c' % 64 < 64 := Nat.mod_lt _ (by decide)
  have hd : c % 64 < 64 := Nat.mod_lt _ (by decide)
  unfold Framebuffer.pixel Framebuffer.setPixel
  simp only [Vector.getElem_set]
  by_cases hr : r % 32 = r' % 32
  · simp only [hr, if_true, true_and]
    cases on <;> by_cases hcc : c' % 64 = c % 64 <;> simp [hc, hd, hcc]
  · simp [hr, Ne.symm hr]

@[simp] theorem Framebuffer.pixel_clear (r c : Nat) : Framebuffer.clear.pixel r c = false := by
  simp [Framebuffer.pixel, Framebuffer.clear]

/-- Two framebuffers with the same pixels are the same. -/
theorem Framebuffer.ext_pixel {f g : Framebuffer} (h : ∀ r < 32, ∀ c < 64, f.pixel r c = g.pixel r c) : f = g := by
  apply Vector.ext
  intro r hr
  apply BitVec.eq_of_getLsbD_eq
  intro c hc
  have := h r hr c hc
  simpa [Framebuffer.pixel, Nat.mod_eq_of_lt hr, Nat.mod_eq_of_lt hc] using this

/-- One sprite bit toggles its pixel when it is 1 and touches no other. -/
theorem drawBit_pixel (cv : Canvas) (r c r' c' : Nat) (bit : Bool) :
    (drawBit cv r c bit).1.pixel r' c' =
      (cv.1.pixel r' c' ^^ (bit && decide (r' % 32 = r % 32) && decide (c' % 64 = c % 64))) := by
  unfold drawBit
  simp only [Framebuffer.pixel_setPixel]
  by_cases h : r' % 32 = r % 32 ∧ c' % 64 = c % 64
  · have : cv.1.pixel r' c' = cv.1.pixel r c := by simp [Framebuffer.pixel, h.1, h.2]
    simp [h.1, h.2, this]
  · rw [if_neg h]
    rcases not_and_or.mp h with h | h <;> simp [h]

/-- One sprite bit collides exactly when it is 1 and its pixel was on. -/
theorem drawBit_collision (cv : Canvas) (r c : Nat) (bit : Bool) :
    (drawBit cv r c bit).2 = (cv.2 || (bit && cv.1.pixel r c)) := by
  unfold drawBit
  cases bit <;> cases cv.1.pixel r c <;> simp

/-- The bit of a sprite row byte that falls on column `c` when the row is drawn from column `x`: bit 7 on column `x`, bit 0 on
column `x + 7`, both mod 64, none elsewhere. -/
def rowBitAt (x : Nat) (byte : Byte) (c : Nat) : Bool :=
  let d := (c + 64 - x % 64) % 64
  decide (d < 8) && byte.getLsbD (7 - d)

/-- The first `k` bits of a sprite row, as the fold that draws them. -/
def drawRowPrefix (x r : Nat) (byte : Byte) (canvas : Canvas) (k : Nat) : Canvas :=
  (List.range k).foldl (fun cv c => drawBit cv r (x + c) (byte.getLsbD (7 - c))) canvas

theorem drawRowPrefix_succ (x r : Nat) (byte : Byte) (cv : Canvas) (k : Nat) :
    drawRowPrefix x r byte cv (k + 1) =
      drawBit (drawRowPrefix x r byte cv k) r (x + k) (byte.getLsbD (7 - k)) := by
  simp [drawRowPrefix, List.range_succ]

theorem drawRowPrefix_pixel (x r : Nat) (byte : Byte) (cv : Canvas) (r' c' : Nat) : ∀ k ≤ 8,
    (drawRowPrefix x r byte cv k).1.pixel r' c' =
      (cv.1.pixel r' c' ^^ (decide (r' % 32 = r % 32) && decide ((c' + 64 - x % 64) % 64 < k) &&
        byte.getLsbD (7 - (c' + 64 - x % 64) % 64)))
  | 0, _ => by simp [drawRowPrefix]
  | k + 1, hk => by
    rw [drawRowPrefix_succ, drawBit_pixel, drawRowPrefix_pixel x r byte cv r' c' k (by omega)]
    by_cases hd : (c' + 64 - x % 64) % 64 = k
    · have hc : c' % 64 = (x + k) % 64 := by omega
      rw [hd]
      simp [hc, Bool.and_comm]
    · have hc : ¬ c' % 64 = (x + k) % 64 := by omega
      have h1 : ((c' + 64 - x % 64) % 64 < k + 1) = ((c' + 64 - x % 64) % 64 < k) := by
        apply propext; omega
      simp [hc, h1]

theorem drawRowPrefix_collision (x r : Nat) (byte : Byte) (cv : Canvas) : ∀ k ≤ 8,
    ((drawRowPrefix x r byte cv k).2 = true ↔
      cv.2 = true ∨ ∃ c < k, byte.getLsbD (7 - c) = true ∧ cv.1.pixel r (x + c) = true)
  | 0, _ => by simp [drawRowPrefix]
  | k + 1, hk => by
    have ih := drawRowPrefix_collision x r byte cv k (by omega)
    have hp := drawRowPrefix_pixel x r byte cv r (x + k) k (by omega)
    have hn : ¬ (x + k + 64 - x % 64) % 64 < k := by omega
    rw [drawRowPrefix_succ, drawBit_collision, hp]
    simp only [hn, decide_false, Bool.and_false, Bool.false_and, Bool.xor_false, Bool.or_eq_true,
      Bool.and_eq_true, ih]
    constructor
    · rintro ((h | ⟨c, hc, h⟩) | h)
      · exact .inl h
      · exact .inr ⟨c, by omega, h⟩
      · exact .inr ⟨k, by omega, h⟩
    · rintro (h | ⟨c, hc, h⟩)
      · exact .inl (.inl h)
      · by_cases hck : c = k
        · subst hck; exact .inr h
        · exact .inl (.inr ⟨c, by omega, h⟩)

/-- One sprite row toggles the pixels under its 1 bits and no other (R186). -/
theorem drawRow_pixel (x r : Nat) (byte : Byte) (cv : Canvas) (r' c' : Nat) :
    (drawRow x r byte cv).1.pixel r' c' =
      (cv.1.pixel r' c' ^^ (decide (r' % 32 = r % 32) && rowBitAt x byte c')) := by
  have := drawRowPrefix_pixel x r byte cv r' c' 8 (Nat.le_refl _)
  simpa [drawRow, drawRowPrefix, rowBitAt, Bool.and_assoc] using this

/-- One sprite row collides exactly when one of its 1 bits falls on a pixel that is on (R186). -/
theorem drawRow_collision (x r : Nat) (byte : Byte) (cv : Canvas) :
    (drawRow x r byte cv).2 = true ↔
      cv.2 = true ∨ ∃ c < 8, byte.getLsbD (7 - c) = true ∧ cv.1.pixel r (x + c) = true :=
  drawRowPrefix_collision x r byte cv 8 (Nat.le_refl _)

/-- The state after a draw, field by field: grid, `VF`, and the event of a collision (44_display.md R189). -/
theorem State.afterDraw_eq (s : State) (cv : Canvas) : s.afterDraw cv =
    { s.setV vF (collisionFlag cv.2) with
      fb := cv.1, events := s.events ++ (if cv.2 then [.present cv.1] else []) } := by
  unfold State.afterDraw
  cases h : cv.2 <;> simp [State.present, State.emit, State.setFB, State.setV]

end Sys2Proof.Machine
end

