-- ==== Sys2Proof/Laws/PerInstr.lean ====
section
/-! SUPPORT. One lemma per instruction: its word selects the row of the opcode map that is its own (30_encoding.md R95). -/

namespace Sys2Proof.Laws.SelectsItsRow

/-- The word of the instruction, masked by its row's `mask`, is its row's `match`; an unknown word is its own word. -/
def Statement (i : Instr) : Prop :=
  match i.row with
  | some (mask, mtch) => encode i &&& mask = mtch
  | none => i = .unknown (encode i)

theorem nibble_kept (b : BitVec 4) : b &&& 15#4 = b := by revert b; decide

theorem byte_kept (b : Byte) : b &&& 255#8 = b := by revert b; decide

/-- The mask F000 keeps the top nibble. -/
theorem mask_top (t : BitVec 4) (a : Addr) : (t ++ a) &&& (0xF000 : Word) = t ++ 0#12 := by
  rw [show (0xF000 : Word) = 15#4 ++ 0#12 by decide, BitVec.and_append, nibble_kept, BitVec.and_zero]

/-- The mask F00F keeps the top and the low nibble. -/
theorem mask_top_low (t x y n : BitVec 4) :
    (t ++ (x ++ (y ++ n))) &&& (0xF00F : Word) = t ++ (0#4 ++ (0#4 ++ n)) := by
  rw [show (0xF00F : Word) = 15#4 ++ (0#4 ++ (0#4 ++ 15#4)) by decide, BitVec.and_append, BitVec.and_append,
    BitVec.and_append, nibble_kept, nibble_kept, BitVec.and_zero, BitVec.and_zero]

/-- The mask F0FF keeps the top nibble and the low byte. -/
theorem mask_top_byte (t x : BitVec 4) (kk : Byte) : (t ++ (x ++ kk)) &&& (0xF0FF : Word) = t ++ (0#4 ++ kk) := by
  rw [show (0xF0FF : Word) = 15#4 ++ (0#4 ++ 255#8) by decide, BitVec.and_append, BitVec.and_append,
    nibble_kept, byte_kept, BitVec.and_zero]

theorem cls : Statement .cls := (by decide : (0x00E0 : Word) &&& 0xFFFF = 0x00E0)
theorem ret : Statement .ret := (by decide : (0x00EE : Word) &&& 0xFFFF = 0x00EE)
theorem jp (nnn : Addr) : Statement (.jp nnn) :=
  (mask_top _ _).trans (by decide)
theorem call (nnn : Addr) : Statement (.call nnn) :=
  (mask_top _ _).trans (by decide)
theorem seImm (x : Reg) (kk : Byte) : Statement (.seImm x kk) :=
  (mask_top _ _).trans (by decide)
theorem sneImm (x : Reg) (kk : Byte) : Statement (.sneImm x kk) :=
  (mask_top _ _).trans (by decide)
theorem seReg (x y : Reg) (n : Nibble) : Statement (.seReg x y n) :=
  (mask_top _ _).trans (by decide)
theorem ldImm (x : Reg) (kk : Byte) : Statement (.ldImm x kk) :=
  (mask_top _ _).trans (by decide)
theorem addImm (x : Reg) (kk : Byte) : Statement (.addImm x kk) :=
  (mask_top _ _).trans (by decide)
theorem ldReg (x y : Reg) : Statement (.ldReg x y) :=
  (mask_top_low _ _ _ _).trans (by decide)
theorem orReg (x y : Reg) : Statement (.orReg x y) :=
  (mask_top_low _ _ _ _).trans (by decide)
theorem andReg (x y : Reg) : Statement (.andReg x y) :=
  (mask_top_low _ _ _ _).trans (by decide)
theorem xorReg (x y : Reg) : Statement (.xorReg x y) :=
  (mask_top_low _ _ _ _).trans (by decide)
theorem addReg (x y : Reg) : Statement (.addReg x y) :=
  (mask_top_low _ _ _ _).trans (by decide)
theorem subReg (x y : Reg) : Statement (.subReg x y) :=
  (mask_top_low _ _ _ _).trans (by decide)
theorem shr (x y : Reg) : Statement (.shr x y) :=
  (mask_top_low _ _ _ _).trans (by decide)
theorem subn (x y : Reg) : Statement (.subn x y) :=
  (mask_top_low _ _ _ _).trans (by decide)
theorem shl (x y : Reg) : Statement (.shl x y) :=
  (mask_top_low _ _ _ _).trans (by decide)
theorem sneReg (x y : Reg) (n : Nibble) : Statement (.sneReg x y n) :=
  (mask_top _ _).trans (by decide)
theorem ldI (nnn : Addr) : Statement (.ldI nnn) :=
  (mask_top _ _).trans (by decide)
theorem jpV0 (nnn : Addr) : Statement (.jpV0 nnn) :=
  (mask_top _ _).trans (by decide)
theorem rnd (x : Reg) (kk : Byte) : Statement (.rnd x kk) :=
  (mask_top _ _).trans (by decide)
theorem drw (x y : Reg) (n : Nibble) : Statement (.drw x y n) :=
  (mask_top _ _).trans (by decide)
theorem skp (x : Reg) : Statement (.skp x) :=
  (mask_top_byte _ _ _).trans (by decide)
theorem sknp (x : Reg) : Statement (.sknp x) :=
  (mask_top_byte _ _ _).trans (by decide)
theorem ldVxDT (x : Reg) : Statement (.ldVxDT x) :=
  (mask_top_byte _ _ _).trans (by decide)
theorem ldVxK (x : Reg) : Statement (.ldVxK x) :=
  (mask_top_byte _ _ _).trans (by decide)
theorem ldDTVx (x : Reg) : Statement (.ldDTVx x) :=
  (mask_top_byte _ _ _).trans (by decide)
theorem ldSTVx (x : Reg) : Statement (.ldSTVx x) :=
  (mask_top_byte _ _ _).trans (by decide)
theorem addI (x : Reg) : Statement (.addI x) :=
  (mask_top_byte _ _ _).trans (by decide)
theorem ldF (x : Reg) : Statement (.ldF x) :=
  (mask_top_byte _ _ _).trans (by decide)
theorem ldB (x : Reg) : Statement (.ldB x) :=
  (mask_top_byte _ _ _).trans (by decide)
theorem stRegs (x : Reg) : Statement (.stRegs x) :=
  (mask_top_byte _ _ _).trans (by decide)
theorem ldRegs (x : Reg) : Statement (.ldRegs x) :=
  (mask_top_byte _ _ _).trans (by decide)
theorem unknown (op : Word) : Statement (.unknown op) := rfl

end Sys2Proof.Laws.SelectsItsRow
end

