-- ==== Sys2Proof/Laws/Step.lean ====
section
/-! SUPPORT. What a step can do, said once: the host's operation it performs, and for a `Step` of the core the instruction it
runs (00_scope.md R8, 40_step_engine.md R120). -/

namespace Sys2Proof.Machine

@[simp] theorem State.beginStep_pastEnd (s : State) (q : Option StepInputs) (rest : List HostOp) :
    (s.beginStep q rest).pastEnd = s.pastEnd := rfl
@[simp] theorem State.beginStep_fetchWord (s : State) (q : Option StepInputs) (rest : List HostOp) :
    (s.beginStep q rest).fetchWord = s.fetchWord := rfl

theorem State.pastEnd_eq_false {s : State} : s.pastEnd = false ↔ s.pc.toNat ≤ 0x200 + s.psize := by
  unfold State.pastEnd
  rw [decide_eq_false_iff_not, Nat.not_lt]

/-- A `Step` that goes on ran the decoded instruction, and `PC` was not past the end. -/
theorem performStep_eq_next {s t : State} :
    performStep s = .next t ↔ s.pc.toNat ≤ 0x200 + s.psize ∧ exec (decode s.fetchWord) s = .next t := by
  unfold performStep
  rw [← State.pastEnd_eq_false]
  cases s.pastEnd <;> simp [raise]

/-- A `Step` that halts: the halt check, or the decoded instruction. -/
theorem performStep_eq_fault {s : State} {f : Fault} : performStep s = .fault f ↔
    (s.pastEnd = true ∧ f = .pcPastEnd s.pc) ∨ (s.pastEnd = false ∧ exec (decode s.fetchWord) s = .fault f) := by
  unfold performStep
  cases s.pastEnd <;> simp [raise, eq_comm]

/-- How a `Step` goes on: it executed its instruction, or it halted and the host has something left to do. -/
theorem invokeStep_eq_next {s t : State} : invokeStep s = .next t ↔
    performStep s = .next t ∨
    ∃ cause, performStep s = .fault cause ∧ s.script ≠ [] ∧ t = { s with result := some cause } := by
  unfold invokeStep State.returnFromStep
  cases performStep s with
  | next u => simp
  | refused r => simp
  | fault cause => cases s.script <;> simp [eq_comm]

/-- A `Step` stops the machine when it halts and the host has nothing left to do. -/
theorem invokeStep_eq_fault {s : State} {f : Fault} :
    invokeStep s = .fault f ↔ performStep s = .fault f ∧ s.script = [] := by
  unfold invokeStep State.returnFromStep
  cases performStep s with
  | next u => simp
  | refused r => simp
  | fault cause => cases s.script <;> simp

theorem invokeStep_eq_refused {s : State} {r : Refusal} : invokeStep s = .refused r ↔ performStep s = .refused r := by
  unfold invokeStep State.returnFromStep
  cases performStep s with
  | next u => simp
  | refused r => simp
  | fault cause => cases s.script <;> simp

/-- The one operation a step that goes on has performed. -/
theorem step_cases {s t : State} (h : step s = .next t) :
    (∃ q rest, (s.script = .step q :: rest ∨ s.script = [] ∧ q = none ∧ rest = []) ∧
      invokeStep (s.beginStep q rest) = .next t) ∨
    (∃ rest, s.script = .timerTick :: rest ∧ t = State.timerTick { s with script := rest }) ∨
    (∃ rest, s.script = .runEntry :: rest ∧ t = State.runEntry { s with script := rest }) ∨
    (∃ bytes rest, s.script = .loadProgram bytes :: rest ∧ loadProgram bytes { s with script := rest } = .next t) ∨
    (∃ rest, s.script = .construct :: rest ∧ t = State.construct { s with script := rest }) ∨
    (∃ rest, s.script = .stop :: rest ∧ t = State.stop { s with script := rest }) := by
  unfold step at h
  split at h
  · exact .inl ⟨_, _, .inr ⟨‹_›, rfl, rfl⟩, h⟩
  · exact .inl ⟨_, _, .inl ‹_›, h⟩
  · exact .inr (.inl ⟨_, ‹_›, (Host.Outcome.next.inj h).symm⟩)
  · exact .inr (.inr (.inl ⟨_, ‹_›, (Host.Outcome.next.inj h).symm⟩))
  · exact .inr (.inr (.inr (.inl ⟨_, _, ‹_›, h⟩)))
  · exact .inr (.inr (.inr (.inr (.inl ⟨_, ‹_›, (Host.Outcome.next.inj h).symm⟩))))
  · exact .inr (.inr (.inr (.inr (.inr ⟨_, ‹_›, (Host.Outcome.next.inj h).symm⟩))))

/-- Only a `Step` of the core stops the machine, and only as the last thing the host does. -/
theorem step_fault {s : State} {f : Fault} (h : step s = .fault f) :
    ∃ q, (s.script = [.step q] ∨ s.script = [] ∧ q = none) ∧ performStep (s.beginStep q []) = .fault f := by
  unfold step at h
  split at h
  · exact ⟨_, .inr ⟨‹_›, rfl⟩, (invokeStep_eq_fault.mp h).1⟩
  · rename_i q rest hs
    obtain ⟨hp, rfl⟩ : performStep (s.beginStep q rest) = .fault f ∧ rest = [] := invokeStep_eq_fault.mp h
    exact ⟨q, .inl hs, hp⟩
  · simp at h
  · simp at h
  · unfold loadProgram at h
    split at h
    · simp at h
    · split at h <;> simp at h
  · simp at h
  · simp at h

end Sys2Proof.Machine
end

