-- ==== Sys2Proof/Tests/Slice0.lean ====
section
/-! SUPPORT. Tests and witnesses. Every expected result is taken from the vectors of 95_test_vectors.md (named in each comment)
or from the rule cited; each test is one step on a small state. -/

namespace Sys2Proof.Machine

/-! ## Ill-formed and well-formed terms (30_encoding.md R96) -/

theorem test_wf_refuses_cls_word : (Instr.unknown 0x00E0).wf = false := by decide
theorem test_wf_refuses_ret_word : (Instr.unknown 0x00EE).wf = false := by decide
theorem test_wf_refuses_family8_word : (Instr.unknown 0x8AB7).wf = false := by decide
theorem test_wf_refuses_familyE_word : (Instr.unknown 0xE5A1).wf = false := by decide
theorem test_wf_refuses_familyF_word : (Instr.unknown 0xF265).wf = false := by decide
theorem test_wf_refuses_other_families :
    ([0x1000, 0x2FFF, 0x3000, 0x4000, 0x5127, 0x6000, 0x7000, 0x9121, 0xA000, 0xBFFF, 0xC000, 0xD000] : List Word).all (fun w => (Instr.unknown w).wf == false) = true := by decide
theorem test_wf_accepts_the_four_sets :
    ([0x0000, 0x00E1, 0x0FFF, 0x8AB8, 0x8ABF, 0xE500, 0xE59F, 0xF200, 0xF2FF] : List Word).all (fun w => (Instr.unknown w).wf == true) = true := by decide
theorem test_wf_accepts_every_operand : (Instr.seReg 0xF 0xF 0xF).wf = true ∧ (Instr.drw 0 0 0).wf = true := by decide

/-! ## Decoding (T-DEC of 95_test_vectors.md) -/

theorem test_decode_family0 : decode 0x00E0 = .cls ∧ decode 0x00EE = .ret ∧
    (([0x0000, 0x00E1, 0x00FE, 0x0123, 0x0FFF] : List Word).all (fun w => decode w == .unknown w) = true) := by decide
theorem test_decode_addresses : decode 0x1ABC = .jp 0xABC ∧ decode 0x2200 = .call 0x200 ∧
    decode 0xA123 = .ldI 0x123 ∧ decode 0xB123 = .jpV0 0x123 := by decide
theorem test_decode_immediates : decode 0x3A7F = .seImm 0xA 0x7F ∧ decode 0x4B00 = .sneImm 0xB 0x00 ∧
    decode 0x6F01 = .ldImm 0xF 0x01 ∧ decode 0x70FF = .addImm 0 0xFF ∧ decode 0xC3F0 = .rnd 3 0xF0 := by decide
theorem test_decode_low_nibble : decode 0x5120 = .seReg 1 2 0 ∧ decode 0x5127 = .seReg 1 2 7 ∧
    decode 0x512F = .seReg 1 2 0xF ∧ decode 0x9120 = .sneReg 1 2 0 ∧ decode 0x9121 = .sneReg 1 2 1 := by decide
theorem test_decode_family8 : decode 0x8AB0 = .ldReg 0xA 0xB ∧ decode 0x8AB1 = .orReg 0xA 0xB ∧
    decode 0x8AB2 = .andReg 0xA 0xB ∧ decode 0x8AB3 = .xorReg 0xA 0xB ∧ decode 0x8AB4 = .addReg 0xA 0xB ∧
    decode 0x8AB5 = .subReg 0xA 0xB ∧ decode 0x8AB6 = .shr 0xA 0xB ∧ decode 0x8AB7 = .subn 0xA 0xB ∧
    decode 0x8ABE = .shl 0xA 0xB := by decide
theorem test_decode_family8_unknown :
    ([0x8AB8, 0x8AB9, 0x8ABA, 0x8ABB, 0x8ABC, 0x8ABD, 0x8ABF] : List Word).all (fun w => decode w == .unknown w) = true := by decide
theorem test_decode_sprites_and_keys : decode 0xD125 = .drw 1 2 5 ∧ decode 0xD120 = .drw 1 2 0 ∧
    decode 0xE59E = .skp 5 ∧ decode 0xE5A1 = .sknp 5 ∧
    (([0xE500, 0xE59F, 0xE5A0, 0xE5FF] : List Word).all (fun w => decode w == .unknown w) = true) := by decide
theorem test_decode_familyF : decode 0xF207 = .ldVxDT 2 ∧ decode 0xF20A = .ldVxK 2 ∧ decode 0xF215 = .ldDTVx 2 ∧
    decode 0xF218 = .ldSTVx 2 ∧ decode 0xF21E = .addI 2 ∧ decode 0xF229 = .ldF 2 ∧ decode 0xF233 = .ldB 2 ∧
    decode 0xF255 = .stRegs 2 ∧ decode 0xF265 = .ldRegs 2 := by decide
theorem test_decode_familyF_unknown :
    ([0xF200, 0xF275, 0xF285, 0xF2FF, 0xF230] : List Word).all (fun w => decode w == .unknown w) = true := by decide
/-- S10: `6005` is stored `60 05`, `60` at the lower address; fewer than two bytes are no instruction (R90). -/
theorem test_decode_bytes : decodeBytes [0x60, 0x05, 0x00] = .ok (.ldImm 0 5, [0x00]) ∧
    decodeBytes [0x60] = .error (.truncated 1) ∧ decodeBytes [] = .error (.truncated 0) ∧
    encodeBytes (.ldImm 0 5) = [0x60, 0x05] ∧ decodeTableWord 16 0x6005 = some (.ldImm 0 5) := by decide

/-! ## One step -/

/-- Registers set one by one over zeros. -/
def regs (l : List (Reg × Byte)) : Vector Byte 16 :=
  l.foldl (fun v p => v.set p.1.toNat p.2 p.1.isLt) (Vector.replicate 16 0)

/-- The fresh machine of the vectors: at 0x200, an image of two bytes. -/
def fresh : State := { State.reset with pc := 0x200, psize := 2 }

/-- The fresh machine with some registers set. -/
def freshV (l : List (Reg × Byte)) : State := { fresh with v := regs l }

/-- The inputs of a vector: the pressed keys, the key-down event, the random byte. -/
def given (pressed : List Nat) (keyDown : Option (BitVec 4)) (rnd : Byte) : StepInputs :=
  ⟨Vector.ofFn fun k => pressed.contains k.val, keyDown, rnd⟩

/-- The host invokes a `Step` with these inputs. -/
def withInputs (pressed : List Nat) (keyDown : Option (BitVec 4)) (rnd : Byte) (s : State) : State :=
  { s with script := [.step (some (given pressed keyDown rnd))] }

/-- What one step does with the word at `PC`. -/
def after (w : Nat) (s : State) (f : State → α) : Option α :=
  match step (s.withFetchWord 16 w) with
  | .next t => some (f t)
  | .fault _ => none
  | .refused _ => none

/-- The framebuffer with these pixels on. -/
def lit (l : List (Nat × Nat)) : Framebuffer := l.foldl (fun fb p => fb.setPixel p.1 p.2 true) Framebuffer.clear

/-- The fresh machine with `V0 = x`, `V1 = y`, `I = i`, bytes there, and pixels on. -/
def drawing (x y : Byte) (i : Word) (bytes : List Byte) (on : List (Nat × Nat)) : State :=
  { (freshV [(0, x), (1, y)]).writeBytes i.toNat bytes with i := i, fb := lit on }

/-! ### T-CTL -/

theorem test_jp : after 0x1204 { fresh with pc := 0x20A, psize := 20 } (·.pc) = some 0x204 := by decide
theorem test_jp_odd : after 0x1203 fresh (·.pc) = some 0x203 := by decide
theorem test_call : after 0x220C { fresh with pc := 0x204, psize := 20 } (fun t => (t.stack[0], t.sp, t.pc)) =
    some (0x204, 1, 0x20C) := by decide
theorem test_call_last : after 0x2300 { fresh with sp := 15 } (fun t => (t.stack[15], t.sp, t.pc)) =
    some (0x200, 16, 0x300) := by decide
theorem test_call_overflow : step ({ fresh with sp := 16 }.withFetchWord 16 0x2300) =
    .fault (.stackOverflow 0x200) := by rfl
theorem test_ret : after 0x00EE { fresh with pc := 0x210, psize := 20, sp := 1, stack := State.reset.stack.set 0 0x204 }
    (fun t => (t.stack[0], t.sp, t.pc)) = some (0x204, 0, 0x206) := by decide
theorem test_ret_underflow : step (fresh.withFetchWord 16 0x00EE) = .fault (.stackUnderflow 0x200) := by rfl
theorem test_jpV0 : after 0xBFFF (freshV [(0, 0xFF)]) (·.pc) = some 0x10FE := by decide
theorem test_seImm : after 0x3100 (freshV [(1, 0)]) (·.pc) = some 0x204 ∧
    after 0x3100 (freshV [(1, 4)]) (·.pc) = some 0x202 := by decide
theorem test_sneImm : after 0x4207 (freshV [(2, 7)]) (·.pc) = some 0x202 ∧
    after 0x4208 (freshV [(2, 7)]) (·.pc) = some 0x204 := by decide
theorem test_seReg : after 0x5347 (freshV [(3, 0x10), (4, 0x10)]) (·.pc) = some 0x204 ∧
    after 0x5340 (freshV [(3, 0x10), (4, 0x11)]) (·.pc) = some 0x202 := by decide
theorem test_sneReg : after 0x9340 (freshV [(3, 1), (4, 2)]) (·.pc) = some 0x204 ∧
    after 0x9340 (freshV [(3, 2), (4, 2)]) (·.pc) = some 0x202 := by decide
/-- T-EXC 5. -/
theorem test_unknown : after 0x8AB8 (freshV [(0xA, 1), (0xB, 2)]) (fun t => (t.events, t.pc, t.v)) =
    some ([.unknownOpcode 0x8AB8 0x200], 0x202, regs [(0xA, 1), (0xB, 2)]) := by decide
/-- T-EXC 4: nothing loaded. -/
theorem test_nothing_loaded : after 0x0000 { fresh with psize := 0 } (fun t => (t.events, t.pc)) =
    some ([.unknownOpcode 0 0x200], 0x202) := by decide
/-- T-EXC 2 and 6: past the end comes before the stack check, and nothing is fetched. -/
theorem test_past_end : step { (fresh.writeBytes 0x203 [0x22, 0x00]) with pc := 0x203, sp := 16 } =
    .fault (.pcPastEnd 0x203) := by rfl

/-! ### T-ALU -/

theorem test_ldImm : after 0x6FAB fresh (·.v) = some (regs [(0xF, 0xAB)]) := by decide
theorem test_addImm : after 0x71FF (freshV [(1, 0x05), (0xF, 0x33)]) (·.v) = some (regs [(1, 0x04), (0xF, 0x33)]) ∧
    after 0x7F01 (freshV [(0xF, 0xFF)]) (·.v) = some (regs []) := by decide
theorem test_ldReg : after 0x8120 (freshV [(2, 0x7E)]) (·.v) = some (regs [(1, 0x7E), (2, 0x7E)]) := by decide
theorem test_orReg : after 0x8121 (freshV [(1, 0xF0), (2, 0x0F), (0xF, 0x55)]) (·.v) =
    some (regs [(1, 0xFF), (2, 0x0F), (0xF, 0x55)]) := by decide
theorem test_andReg : after 0x8122 (freshV [(1, 0xF0), (2, 0x3C)]) (·.v) = some (regs [(1, 0x30), (2, 0x3C)]) := by decide
theorem test_xorReg : after 0x8123 (freshV [(1, 0xF0), (2, 0x3C)]) (·.v) = some (regs [(1, 0xCC), (2, 0x3C)]) := by decide
theorem test_addReg : after 0x8014 (freshV [(0, 0xFF), (1, 0x01)]) (·.v) = some (regs [(0, 0x00), (1, 0x01), (0xF, 1)]) ∧
    after 0x8F14 (freshV [(0xF, 0x03), (1, 0x05)]) (·.v) = some (regs [(1, 0x05), (0xF, 0)]) := by decide
theorem test_addReg_flag_is_addend : after 0x80F4 (freshV [(0, 0xFF), (0xF, 0x01)]) (·.v) = some (regs [(0xF, 1)]) := by
  decide
theorem test_subReg : after 0x8015 (freshV [(0, 0x10), (1, 0x20)]) (·.v) =
    some (regs [(0, 0xF0), (1, 0x20), (0xF, 0)]) ∧
    after 0x8015 (freshV [(0, 0x33), (1, 0x33)]) (·.v) = some (regs [(0, 0x00), (1, 0x33), (0xF, 1)]) := by decide
theorem test_shr : after 0x8016 (freshV [(0, 0xFF), (1, 0x01)]) (·.v) = some (regs [(0, 0x7F), (1, 0x01), (0xF, 1)]) ∧
    after 0x8F16 (freshV [(0xF, 0x80)]) (·.v) = some (regs [(0xF, 0)]) := by decide
theorem test_subn : after 0x8017 (freshV [(0, 0x10), (1, 0x20)]) (·.v) =
    some (regs [(0, 0x10), (1, 0x20), (0xF, 1)]) ∧
    after 0x8017 (freshV [(0, 0x20), (1, 0x10)]) (·.v) = some (regs [(0, 0xF0), (1, 0x10), (0xF, 0)]) := by decide
theorem test_shl : after 0x801E (freshV [(0, 0xAA), (1, 0x55)]) (·.v) = some (regs [(0, 0x54), (1, 0x55), (0xF, 1)]) ∧
    after 0x8F1E (freshV [(0xF, 0x03)]) (·.v) = some (regs [(0xF, 0)]) := by decide
theorem test_rnd : after 0xC10F (withInputs [] none 0xA7 fresh) (·.v) = some (regs [(1, 0x07)]) := by decide

/-! ### T-MEM -/

theorem test_ldI : after 0xAFFF fresh (·.i) = some 0x0FFF := by decide
theorem test_addI : after 0xF21E { freshV [(2, 0x01), (0xF, 0x77)] with i := 0x0FFF } (fun t => (t.i, t.getV 0xF)) =
    some (0x1000, 0x77) ∧ after 0xF21E { freshV [(2, 0xFF)] with i := 0xFFFF } (·.i) = some 0x00FE := by decide
theorem test_ldF : after 0xF029 (freshV [(0, 15)]) (·.i) = some 0x04B ∧
    after 0xF029 (freshV [(0, 255)]) (·.i) = some 0x4FB := by decide
/-- S9, and vector 10: the digits wrap onto the font. -/
theorem test_ldB : after 0xF333 { freshV [(3, 234)] with i := 0x300 }
    (fun t => (t.readByte 0x300, t.readByte 0x301, t.readByte 0x302)) = some (2, 3, 4) ∧
    after 0xF333 { freshV [(3, 255)] with i := 0x0FFF }
    (fun t => (t.readByte 0xFFF, t.readByte 0x000, t.readByte 0x001)) = some (2, 5, 5) := by decide
theorem test_stRegs : after 0xF355 { freshV [(0, 0x11), (1, 0x22), (2, 0x33), (3, 0x44)] with i := 0x0FFE }
    (fun t => (t.readByte 0xFFE, t.readByte 0xFFF, t.readByte 0x000, t.readByte 0x001, t.i)) =
    some (0x11, 0x22, 0x33, 0x44, 0x0FFE) := by decide
theorem test_stRegs_inclusive : after 0xF055 { freshV [(0, 0x11), (1, 0x22)] with i := 0x400 }
    (fun t => (t.readByte 0x400, t.readByte 0x401)) = some (0x11, 0) := by decide
theorem test_ldRegs : after 0xF265 { (freshV [(3, 0x99)]).writeBytes 0x300 [0, 1, 5, 7] with i := 0x300 }
    (fun t => (t.v, t.i)) = some (regs [(0, 0), (1, 1), (2, 5), (3, 0x99)], 0x300) := by decide
/-- Vector 16: glyph F of the default font. -/
theorem test_ldRegs_font : after 0xFF65 { fresh with i := 0x04B } (·.v) =
    some (regs [(0, 0xF0), (1, 0x80), (2, 0xF0), (3, 0x80), (4, 0x80)]) := by decide

/-! ### T-DRW -/

/-- Vector 2: the sprite wraps on both axes. -/
theorem test_drw_wraps : after 0xD012 (drawing 62 31 0x300 [0xC0, 0x81] []) (fun t => (t.fb, t.getV 0xF, t.events)) =
    some (lit [(31, 62), (31, 63), (0, 62), (0, 5)], 0, []) := by decide
/-- Vector 4: a collision sets `VF` and presents. -/
theorem test_drw_collision : after 0xD011 (drawing 0 0 0x300 [0x80] [(0, 0)]) (fun t => (t.fb, t.getV 0xF, t.events)) =
    some (Framebuffer.clear, 1, [.present Framebuffer.clear]) := by decide
/-- Vector 14: a clear presents even when nothing was on. -/
theorem test_cls : after 0x00E0 { fresh with fb := lit [(3, 3)] } (fun t => (t.fb, t.events)) =
    some (Framebuffer.clear, [.present Framebuffer.clear]) ∧
    after 0x00E0 fresh (·.events) = some [.present Framebuffer.clear] := by decide

/-! ### T-KEY and T-TMR -/

theorem test_skp : after 0xE29E (withInputs [10] none 0 (freshV [(2, 0x0A)])) (·.pc) = some 0x204 ∧
    after 0xE29E (withInputs [9] none 0 (freshV [(2, 0x0A)])) (·.pc) = some 0x202 := by decide
theorem test_sknp : after 0xE2A1 (withInputs [15] none 0 (freshV [(2, 15)])) (·.pc) = some 0x202 ∧
    after 0xE2A1 (withInputs [] none 0 (freshV [(2, 15)])) (·.pc) = some 0x204 := by decide
/-- K9: the level is not consulted. -/
theorem test_key_wait : after 0xF20A (withInputs [7] none 0 (freshV [(2, 0x33)])) (fun t => (t.v, t.pc, t.events)) =
    some (regs [(2, 0x33)], 0x200, [.waiting]) := by decide
theorem test_key_arrives : after 0xFF0A (withInputs [] (some 15) 0 fresh) (fun t => (t.v, t.pc, t.events)) =
    some (regs [(0xF, 0x0F)], 0x202, []) := by decide
theorem test_ldVxDT : after 0xF107 { fresh with dt := 0x3B } (fun t => (t.v, t.dt)) = some (regs [(1, 0x3B)], 0x3B) := by
  decide
theorem test_ldDTVx : after 0xF015 (freshV [(0, 0x3C)]) (·.dt) = some 0x3C := by decide
theorem test_ldSTVx_on : after 0xF018 (freshV [(0, 3)]) (fun t => (t.st, t.tone, t.events)) =
    some (3, true, [.setTone true]) := by decide
theorem test_ldSTVx_off : after 0xF018 { fresh with st := 3, tone := true } (fun t => (t.st, t.tone, t.events)) =
    some (0, false, [.setTone false]) := by decide
theorem test_tick : (fun t : State => (t.dt, t.st, t.tone, t.events))
    (State.timerTick { fresh with dt := 4, st := 1, tone := true }) = (3, 0, false, [.setTone false]) := by decide
theorem test_tick_at_zero : (fun t : State => (t.dt, t.st, t.tone, t.events)) (State.timerTick fresh) =
    (0, 0, false, []) := by decide

/-! ### T-EXC -/

/-- Vector 10. -/
theorem test_runEntry : (some (State.runEntry
      { freshV [(3, 9)] with sp := 4, dt := 2, st := 7, tone := true, i := 0x345, fb := lit [(1, 1)] })).map
    (fun t => (t.pc, t.i, t.getV 3, t.events)) =
    some (0x200, 0, 9, [.setTone false, .present Framebuffer.clear]) := by decide
/-- Vector 9, from reset. -/
theorem test_loadProgram : loadProgram [0x60, 0x05, 0x00, 0xE0] State.reset = .next { State.reset with
    mem := [(0x200, 0x60), (0x201, 0x05), (0x203, 0xE0)], psize := 4 } := by rfl
/-- T-EXC 7: `Halt`, a tick, and a `Step` that halts again, the timers moved by the tick only. -/
theorem test_halt_tick_halt : ∃ t, Sys2Proof.core.run 2
    { fresh with pc := 0x203, dt := 5, script := [.step none, .timerTick, .step none] } = .next t ∧
    t.result = some (.pcPastEnd 0x203) ∧ t.dt = 4 ∧ t.pc = 0x203 ∧ step t = .fault (.pcPastEnd 0x203) :=
  ⟨_, rfl, rfl, rfl, rfl, rfl⟩
/-- R252: after a run has ended, loads are taken until the next `RunEntry`, also where the first one makes the next `Step` go
on again. -/
theorem test_two_loads_after_halt : ∃ t, Sys2Proof.core.run 3 { fresh with
      pc := 0x203
      running := true
      script := [.step none, .loadProgram [0, 0, 0, 0, 0, 0], .loadProgram [0x12, 0x00]] } = .next t ∧ t.psize = 2 :=
  ⟨_, rfl, rfl⟩
/-- U7: a load between two `Step`s of one run is refused. -/
theorem test_load_during_run : step { fresh with running := true, script := [.loadProgram [0x12, 0x00]] } =
    .refused .loadDuringRun := by rfl
/-- R22: the font is what the parameter says, for another `FONT` than the default. -/
theorem test_other_font : after 0xF065 { fresh with font := Vector.replicate 80 0xAA, i := 0x04F } (·.getV 0) = some 0xAA := by
  decide
/-- The whole way from power-on to the first instruction of P1: load, enter, one step. -/
theorem test_from_reset : ∃ t, Sys2Proof.core.run 3
    { State.reset with script := [.loadProgram [0x60, 0x05, 0x00, 0xE0], .runEntry] } = .next t ∧
    t.getV 0 = 5 ∧ t.pc = 0x202 := ⟨_, rfl, by decide, by decide⟩

/-! ## Witnesses: a state that meets the hypotheses of each statement -/

theorem witness_StepKeepsTheInvariants : ∃ s t : State, s.Inv ∧ s.mem ≠ [] ∧ s.st ≠ 0 ∧ step s = .next t :=
  ⟨{ fresh with mem := [(0x200, 0x6F)], st := 3, tone := true }, _, by unfold State.Inv; decide, by decide, by decide, rfl⟩
theorem witness_StepKeepsThePcBound : ∃ s t : State, s.PcBounded ∧ s.pc = 0x1000 ∧ s.sp = 16 ∧ step s = .next t :=
  ⟨{ fresh with pc := 0x1000, psize := 3584, sp := 16, stack := Vector.replicate 16 0x1000 }, _,
    by unfold State.PcBounded; decide, rfl, rfl, rfl⟩
theorem witness_StepRunsTheDecodedInstruction_schedule : ∃ (s : State) (i : Instr) (q : Option StepInputs) (rest : List HostOp),
    s.pc.toNat = 0x200 + s.psize ∧ decode (wordOfBytes (s.readByte s.pc.toNat) (s.readByte (s.pc.toNat + 1))) = i ∧
      s.script = .step q :: rest :=
  ⟨{ fresh with pc := 0x202, script := [.step none, .timerTick] }, _, _, _, rfl, rfl, rfl⟩
theorem witness_StepRunsTheDecodedInstruction_end : ∃ (s : State) (i : Instr), s.pc.toNat ≤ 0x200 + s.psize ∧
    decode (wordOfBytes (s.readByte s.pc.toNat) (s.readByte (s.pc.toNat + 1))) = i ∧ s.script = [] :=
  ⟨State.reset, _, by decide, rfl, rfl⟩
theorem witness_PcPastTheEndHalts : ∃ s : State, s.pc.toNat = 0x200 + s.psize + 1 ∧ s.script = [] :=
  ⟨{ fresh with pc := 0x203 }, rfl, rfl⟩
theorem witness_PcPastTheEndHalts_last : ∃ (s : State) (q : Option StepInputs),
    s.pc.toNat = 0x200 + s.psize + 1 ∧ s.script = [.step q] :=
  ⟨{ fresh with pc := 0x203, script := [.step none] }, _, rfl, rfl⟩
theorem witness_PcPastTheEndHalts_more : ∃ (s : State) (q : Option StepInputs) (op : HostOp) (rest : List HostOp),
    s.pc.toNat = 0x200 + s.psize + 1 ∧ s.script = .step q :: op :: rest :=
  ⟨{ fresh with pc := 0x203, script := [.step none, .timerTick] }, _, _, _, rfl, rfl⟩
theorem witness_OnlyTheNamedConditionsStop_faults : (∃ f, exec .ret fresh = .fault f) ∧
    (∃ f, exec (.call 0x300) { fresh with sp := 16 } = .fault f) := ⟨⟨_, rfl⟩, ⟨_, rfl⟩⟩
/-- The refusal exists exactly under the policy `refuse` (K5). -/
theorem witness_OnlyTheNamedConditionsStop_refusal (h : Config.keyOor = .refuse) :
    exec (.skp 2) (freshV [(2, 0x10)]) = .refused (.keyIndexOutOfRange 0x10) := by
  have : (freshV [(2, 0x10)]).getV 2 = 0x10 := by decide
  simp only [exec, execSkp, State.keyTest, this, h]
  rfl
theorem witness_HaltIsStable : (∃ f, step { fresh with pc := 0x203, script := [.step none] } = .fault f) ∧
    (∃ f, step { (fresh.withFetchWord 16 0x00EE) with script := [.step none] } = .fault f) ∧
    (∃ f, step { ({ fresh with sp := 16 }.withFetchWord 16 0x2300) with script := [.step none] } = .fault f) :=
  ⟨⟨_, rfl⟩, ⟨_, rfl⟩, ⟨_, rfl⟩⟩
theorem witness_next_states : (∃ t, exec (.stRegs 3) fresh = .next t) ∧ (∃ t, exec (.drw 0 1 5) fresh = .next t) ∧
    (∃ t, exec (.ldRegs 3) fresh = .next t) ∧ (∃ t, exec (.call 0x300) fresh = .next t) ∧
    (∃ t, exec (.ldSTVx 3) fresh = .next t) := ⟨⟨_, rfl⟩, ⟨_, rfl⟩, ⟨_, rfl⟩, ⟨_, rfl⟩, ⟨_, rfl⟩⟩
theorem witness_HighBitsOfIndexAreUnobservable :
    SameButHighI { fresh with i := 0x0FFF } { fresh with i := 0xFFFF } := ⟨rfl, by decide⟩
theorem witness_InputsAreIgnoredByOtherInstructions : readsInputs .ret = false ∧
    (∃ t, exec .ret { fresh with sp := 1 } = .next t) ∧ (∃ f, exec .ret fresh = .fault f) :=
  ⟨rfl, ⟨_, rfl⟩, ⟨_, rfl⟩⟩
theorem witness_CanonicalMemoryIsUnique : Memory.wf [(0x000, 0x00), (0xFFF, 0x01)] defaultFont = true ∧
    Memory.wf [(0x000, 0xF0), (0xFFF, 0x01)] (Vector.replicate 80 0) = true := by decide
theorem witness_StoresAreSeenByTheNextFetch : ∃ (s : State) (x : Reg) (k : Nat), k < x.toNat ∧
    (s.i.toNat + k) % 4096 = (s.pc + 2).toNat % 4096 ∧ s.getV 0 = 0x12 :=
  ⟨{ freshV [(0, 0x12)] with i := 0x0FFF, pc := 0x0FFF }, 3, 2, by decide, by decide, by decide⟩
theorem witness_decoding_masks : (0x8AB0 : Word) &&& 0xF00F = 0x8000 ∧ (0x6F01 : Word) &&& 0xF000 = 0x6000 ∧
    (0x70FF : Word) &&& 0xF000 = 0x7000 ∧ (0x8AB1 : Word) &&& 0xF00F = 0x8001 ∧ (0x8AB2 : Word) &&& 0xF00F = 0x8002 ∧
    (0x8AB3 : Word) &&& 0xF00F = 0x8003 ∧ (0x1ABC : Word) &&& 0xF000 = 0x1000 ∧ (0x3A7F : Word) &&& 0xF000 = 0x3000 ∧
    (0x4B00 : Word) &&& 0xF000 = 0x4000 ∧ (0xA123 : Word) &&& 0xF000 = 0xA000 ∧ (0xF233 : Word) &&& 0xF0FF = 0xF033 ∧
    (0xF207 : Word) &&& 0xF0FF = 0xF007 ∧ (0xF215 : Word) &&& 0xF0FF = 0xF015 := by decide
theorem witness_AddSetsSumAndCarry : (∃ s : State, 255 < (s.getV 0).toNat + (s.getV 1).toNat) ∧
    (∃ s : State, (s.getV 0).toNat + (s.getV 1).toNat = 255) :=
  ⟨⟨freshV [(0, 0xFF), (1, 0x01)], by decide⟩, ⟨freshV [(0, 0xFE), (1, 0x01)], by decide⟩⟩
theorem witness_SubtractSetsDifferenceAndNotBorrow : (∃ s : State, (s.getV 1).toNat = (s.getV 0).toNat) ∧
    (∃ s : State, (s.getV 0).toNat < (s.getV 1).toNat) ∧ (∃ s : State, (s.getV 1).toNat < (s.getV 0).toNat) :=
  ⟨⟨freshV [(0, 9), (1, 9)], by decide⟩, ⟨freshV [(0, 8), (1, 9)], by decide⟩, ⟨freshV [(0, 9), (1, 8)], by decide⟩⟩
theorem witness_RandomByteIsMasked : ∃ (s : State) (q : StepInputs), s.inputs = some q ∧ s.rndNow = 0xA7 :=
  ⟨{ fresh with inputs := some (given [] none 0xA7) }, _, rfl, rfl⟩
theorem witness_CallPushesItsOwnAddress : (∃ s : State, s.sp.val = 0) ∧ (∃ s : State, s.sp.val = 15) :=
  ⟨⟨fresh, rfl⟩, ⟨{ fresh with sp := 15 }, rfl⟩⟩
theorem witness_ReturnGoesPastThePoppedCall : (∃ s : State, s.sp.val = 1) ∧ (∃ s : State, s.sp.val = 16) :=
  ⟨⟨{ fresh with sp := 1 }, rfl⟩, ⟨{ fresh with sp := 16 }, rfl⟩⟩
theorem witness_ReturnUndoesCall : ∃ (s t u : State) (h : s.sp.val < 16), exec (.call 0x300) s = .next t ∧ u.sp = t.sp ∧
    u.stack[s.sp.val] = t.stack[s.sp.val] ∧ u.pc ≠ t.pc :=
  ⟨{ fresh with sp := 15 }, _, { fresh with pc := 0x310, sp := 16, stack := Vector.replicate 16 0x200 }, by decide, rfl, rfl,
    by decide, by decide⟩
theorem witness_StackLimitsAreFatal : (∃ s : State, s.sp.val = 16) ∧ (∃ s : State, s.sp.val = 0) :=
  ⟨⟨{ fresh with sp := 16 }, rfl⟩, ⟨fresh, rfl⟩⟩
theorem witness_skips : (∃ s : State, s.getV 3 = s.getV 4) ∧ (∃ s : State, s.getV 3 ≠ s.getV 4) :=
  ⟨⟨fresh, by decide⟩, ⟨freshV [(3, 1)], by decide⟩⟩
/-- Vector 4 collides, vector 5 does not; both cover some pixels and not others. -/
theorem witness_Draw_collides : SpriteCollides (drawing 0 0 0x300 [0x80] [(0, 0)]) 0 1 1 :=
  ⟨0, by decide, 0, by decide, ⟨0, by decide, 0, by decide, by decide, by decide, by decide⟩, by decide⟩
theorem witness_Draw_covers_off_pixel : SpriteCovers (drawing 0 0 0x300 [0x40] [(0, 0)]) 0 1 1 0 1 ∧
    (drawing 0 0 0x300 [0x40] [(0, 0)]).fb.pixel 0 1 = false :=
  ⟨⟨0, by decide, 1, by decide, by decide, by decide, by decide⟩, by decide⟩
theorem witness_Draw_empty_sprite (r c : Nat) : ¬SpriteCovers fresh 0 1 0 r c ∧ ¬SpriteCollides fresh 0 1 0 :=
  ⟨fun ⟨_, h, _⟩ => absurd h (Nat.not_lt_zero _), fun ⟨_, _, _, _, ⟨_, h, _⟩, _⟩ => absurd h (Nat.not_lt_zero _)⟩
theorem witness_KeySkipsTestTheLevel : ∃ (s : State) (q : StepInputs), (s.getV 2).toNat = 15 ∧ s.inputs = some q ∧
    s.keysNow[15] = true := ⟨{ freshV [(2, 15)] with inputs := some (given [15] none 0) }, _, by decide, rfl, by decide⟩
theorem witness_KeyIndexOutOfRangeFollowsThePolicy : ∃ s : State, (s.getV 2).toNat = 16 :=
  ⟨freshV [(2, 16)], by decide⟩
theorem witness_KeyWaitResolvesOrStutters : (∃ s : State, s.keyDownNow = some 15) ∧ (∃ s : State, s.keyDownNow = none) :=
  ⟨⟨{ fresh with inputs := some (given [] (some 15) 0) }, rfl⟩, ⟨{ fresh with inputs := some (given [7] none 0) }, rfl⟩⟩
theorem witness_SoundTimerDrivesTheGate : ∃ s : State, s.st = 0 ∧ s.getV 0 = 0 ∧ s.getV 1 ≠ 0 :=
  ⟨freshV [(1, 1)], by decide⟩
theorem witness_SoundTimerDrivesTheGate_on : ∃ s : State, s.st ≠ 0 ∧ s.getV 0 = 0 ∧ s.getV 1 ≠ 0 :=
  ⟨{ freshV [(1, 1)] with st := 255, tone := true }, by decide⟩
theorem witness_TimerTickCountsDown : (∃ (s : State) (rest : List HostOp), s.script = .timerTick :: rest ∧ s.st = 1) ∧
    (∃ (s : State) (rest : List HostOp), s.script = .timerTick :: rest ∧ s.st = 0 ∧ s.dt = 0) :=
  ⟨⟨{ fresh with script := [.timerTick, .step none], st := 1 }, _, rfl, rfl⟩,
    ⟨{ fresh with script := [.timerTick] }, _, rfl, rfl, rfl⟩⟩
theorem witness_TicksSaturateAtZero : (∃ s : State, 0 < s.st.toNat ∧ s.st.toNat ≤ 1) ∧ (∃ s : State, s.st = 0) ∧
    (∃ s : State, 1 < s.st.toNat) :=
  ⟨⟨{ fresh with st := 1, tone := true }, by decide⟩, ⟨fresh, rfl⟩, ⟨{ fresh with st := 2, tone := true }, by decide⟩⟩
theorem witness_RunEntryResetsAndKeeps : (∃ (s : State) (rest : List HostOp), s.script = .runEntry :: rest ∧ s.st = 0) ∧
    (∃ (s : State) (rest : List HostOp), s.script = .runEntry :: rest ∧ s.st ≠ 0) :=
  ⟨⟨{ fresh with script := [.runEntry] }, _, rfl, rfl⟩,
    ⟨{ fresh with script := [.runEntry, .timerTick], st := 7, tone := true }, _, rfl, by decide⟩⟩
theorem witness_LoadProgram_tooLarge : ∃ (s : State) (bytes : List Byte) (rest : List HostOp),
    s.script = .loadProgram bytes :: rest ∧ bytes.length = 3585 :=
  ⟨{ fresh with script := [.loadProgram (List.replicate 3585 0)] }, _, _, rfl, List.length_replicate⟩
theorem witness_LoadProgram_largest : ∃ (s : State) (bytes : List Byte) (rest : List HostOp),
    s.script = .loadProgram bytes :: rest ∧ bytes.length = 3584 ∧ s.inRun = false :=
  ⟨{ fresh with script := [.loadProgram (List.replicate 3584 0)] }, _, _, rfl, List.length_replicate, rfl⟩
theorem witness_LoadProgram_duringRun : ∃ (s : State) (bytes : List Byte) (rest : List HostOp),
    s.script = .loadProgram bytes :: rest ∧ bytes.length = 2 ∧ s.inRun = true :=
  ⟨{ fresh with script := [.loadProgram [0x12, 0x00]], running := true }, _, _, rfl, rfl, by decide⟩
/-- A run that has ended by a `Halt` is no longer in progress. -/
theorem witness_LoadProgram_afterHalt : ∃ (s : State) (bytes : List Byte) (rest : List HostOp),
    s.script = .loadProgram bytes :: rest ∧ s.running = true ∧ s.inRun = false :=
  ⟨{ fresh with script := [.loadProgram [0x12, 0x00]], running := true, pc := 0x203 }, _, _, rfl, rfl, by decide⟩
theorem witness_ConstructRestoresPowerOn : ∃ (s : State) (rest : List HostOp), s.script = .construct :: rest ∧ s ≠ State.reset :=
  ⟨{ fresh with script := [.construct] }, _, rfl, by decide⟩

theorem witness_StoppingARunChangesNoElement : ∃ (s : State) (rest : List HostOp), s.script = .stop :: rest ∧
    s.inRun = true := ⟨{ fresh with script := [.stop, .runEntry], running := true }, _, rfl, by decide⟩

/-- Each clause of the premise, with `PC` at its bound. -/
theorem witness_HaltChangesNothingAndTheHostGoesOn : (∃ s : State, s.pc.toNat = 0x200 + s.psize + 1) ∧
    (∃ s : State, s.pc.toNat = 0x200 + s.psize ∧ (∃ nnn, decode s.fetchWord = .call nnn) ∧ s.sp.val = 16) ∧
    (∃ s : State, s.pc.toNat = 0x200 + s.psize ∧ decode s.fetchWord = .ret ∧ s.sp.val = 0) :=
  ⟨⟨{ fresh with pc := 0x203 }, rfl⟩,
    ⟨({ fresh with pc := 0x202, sp := 16 } : State).withFetchWord 16 0x2300, rfl, ⟨0x300, by decide⟩, rfl⟩,
    ⟨({ fresh with pc := 0x202 } : State).withFetchWord 16 0x00EE, rfl, by decide, rfl⟩⟩
theorem witness_TheHostRestartsAHaltedMachine : ∃ (s : State) (f : Fault),
    step { s with script := [.step none] } = .fault f ∧ s.running = true ∧ s.getV 3 = 9 :=
  ⟨{ freshV [(3, 9)] with pc := 0x203, running := true }, _, rfl, rfl, by decide⟩

end Sys2Proof.Machine
end

/-! # The state: what each instruction writes, the invariants, and what no step can tell apart (10_state.md) -/

section
namespace Sys2Proof.Machine

/-! ## When the instructions with more than one outcome go on -/

theorem execRet_eq_next {s t : State} : execRet s = .next t ↔
    ∃ entry u, s.pop? = some (entry, u) ∧ t = u.setPC (entry + 2) := by
  unfold execRet
  cases s.pop? with
  | none => simp [raise]
  | some popped => obtain ⟨entry, u⟩ := popped; simp [eq_comm]

theorem execCall_eq_next {nnn : Addr} {s t : State} : execCall nnn s = .next t ↔
    ∃ u, s.push? s.pc = some u ∧ t = u.setPC (zextAddr nnn) := by
  unfold execCall
  cases s.push? s.pc <;> simp [raise, eq_comm]

theorem execSkp_eq_next {x : Reg} {s t : State} : execSkp x s = .next t ↔
    ∃ pressed, s.keyTest (s.getV x) = .ok pressed ∧ t = s.skipIf pressed := by
  unfold execSkp
  cases s.keyTest (s.getV x) <;> simp [eq_comm]

theorem execSknp_eq_next {x : Reg} {s t : State} : execSknp x s = .next t ↔
    ∃ pressed, s.keyTest (s.getV x) = .ok pressed ∧ t = s.skipIf !pressed := by
  unfold execSknp
  cases s.keyTest (s.getV x) <;> simp [eq_comm]

theorem execLdVxK_eq_next {x : Reg} {s t : State} : execLdVxK x s = .next t ↔
    (∃ k, s.keyDownNow = some k ∧ t = (s.setV x (k.setWidth 8)).advance) ∨
    (s.keyDownNow = none ∧ t = s.emit .waiting) := by
  unfold execLdVxK
  cases s.keyDownNow <;> simp [eq_comm]

/-- After a draw `VF` holds the collision flag and every other register is as before (44_display.md R189). -/
theorem State.getV_afterDraw (s : State) (cv : Canvas) (r : Reg) :
    (s.afterDraw cv).getV r = if r = vF then collisionFlag cv.2 else s.getV r := by
  rw [State.afterDraw_eq]
  exact State.getV_setV s vF r _

/-! ## Frames, one rule per operation of the state -/

namespace FrameBut
variable {l : List Part} {s t : State}

theorem refl (l : List Part) (s : State) : FrameBut l s s := fun p _ => by
  cases p <;> simp [Part.Same]

theorem setPC (h : FrameBut l s t) (w : Word) : FrameBut l s (t.setPC w) := fun p hp => by
  cases p <;> exact h _ hp

theorem advance (h : FrameBut l s t) : FrameBut l s t.advance := h.setPC _

theorem skipIf (h : FrameBut l s t) (c : Bool) : FrameBut l s (t.skipIf c) := h.setPC _

theorem setV (h : FrameBut l s t) (x : Reg) (b : Byte) (hl : .regs ∈ l := by simp [writeSet]) :
    FrameBut l s (t.setV x b) := fun p hp => by
    cases p with
    | regs => exact absurd hl hp
    | _ => exact h _ hp

theorem setVF (h : FrameBut l s t) (x : Reg) (b flag : Byte) (hl : .regs ∈ l := by simp [writeSet]) :
    FrameBut l s (t.setVF x b flag) := (h.setV x b hl).setV vF flag hl

theorem setI (h : FrameBut l s t) (w : Word) (hl : .index ∈ l := by simp [writeSet]) :
    FrameBut l s (t.setI w) := fun p hp => by
  cases p with
  | index => exact absurd hl hp
  | _ => exact h _ hp

theorem setDT (h : FrameBut l s t) (b : Byte) (hl : .delay ∈ l := by simp [writeSet]) :
    FrameBut l s (t.setDT b) := fun p hp => by
  cases p with
  | delay => exact absurd hl hp
  | _ => exact h _ hp

theorem setFB (h : FrameBut l s t) (fb : Framebuffer) (hl : .screen ∈ l := by simp [writeSet]) :
    FrameBut l s (t.setFB fb) := fun p hp => by
    cases p with
    | screen => exact absurd hl hp
    | _ => exact h _ hp

theorem emit (h : FrameBut l s t) (e : Event) (hl : .events ∈ l := by simp [writeSet]) :
    FrameBut l s (t.emit e) := fun p hp => by
  cases p with
  | events => exact absurd hl hp
  | _ => exact h _ hp

theorem present (h : FrameBut l s t) (hl : .events ∈ l := by simp [writeSet]) : FrameBut l s t.present :=
  h.emit _ hl

theorem writeBytes (h : FrameBut l s t) (a : Nat) (bs : List Byte) (hl : .memory ∈ l := by simp [writeSet]) :
    FrameBut l s (t.writeBytes a bs) := fun p hp => by
  cases p with
  | memory => exact absurd hl hp
  | _ => exact h _ hp

theorem setST (h : FrameBut l s t) (b : Byte) (hs : .sound ∈ l := by simp [writeSet])
    (he : .events ∈ l := by simp [writeSet]) : FrameBut l s (t.setST b) := fun p hp => by
  rw [State.setST_eq]
  cases p with
  | sound => exact absurd hs hp
  | events => exact absurd he hp
  | _ => exact h _ hp

theorem loadRegs (h : FrameBut l s t) (k : Nat) (bs : List Byte) (hl : .regs ∈ l := by simp [writeSet]) :
    FrameBut l s (t.loadRegs k bs) := fun p hp => by
  rw [State.loadRegs_eq]
  cases p with
  | regs => exact absurd hl hp
  | _ => exact h _ hp

theorem afterDraw (h : FrameBut l s t) (cv : Canvas) (hf : .screen ∈ l := by simp [writeSet])
    (hr : .regs ∈ l := by simp [writeSet]) (he : .events ∈ l := by simp [writeSet]) :
    FrameBut l s (t.afterDraw cv) := fun p hp => by
  rw [State.afterDraw_eq]
  cases p with
  | screen => exact absurd hf hp
  | regs => exact absurd hr hp
  | events => exact absurd he hp
  | _ => exact h _ hp

theorem push {u : State} {w : Word} (h : FrameBut l s t) (hu : t.push? w = some u)
    (hl : .stack ∈ l := by simp [writeSet]) :
    FrameBut l s u := fun p hp => by
  obtain ⟨_, rfl⟩ := State.push?_eq_some.mp hu
  cases p with
  | stack => exact absurd hl hp
  | _ => exact h _ hp

theorem pop {u : State} {w : Word} (h : FrameBut l s t) (hu : t.pop? = some (w, u))
    (hl : .stack ∈ l := by simp [writeSet]) :
    FrameBut l s u := fun p hp => by
  obtain ⟨_, _, _, _, rfl⟩ := State.pop?_eq_some.mp hu
  cases p with
  | stack => exact absurd hl hp
  | _ => exact h _ hp

end FrameBut

/-! ## The write set of every instruction (R41) -/

/-- An instruction that goes on changes no part of the state outside its write set. -/
theorem exec_frame {i : Instr} {s t : State} (h : exec i s = .next t) : FrameBut (writeSet i) s t := by
  have same := FrameBut.refl (writeSet i) s
  cases i with
  | cls =>
    obtain rfl := Host.Outcome.next.inj h
    exact ((same.setFB _).present).advance
  | ret =>
    obtain ⟨_, _, hpop, rfl⟩ := execRet_eq_next.mp h
    exact (same.pop hpop).setPC _
  | call nnn =>
    obtain ⟨_, hpush, rfl⟩ := execCall_eq_next.mp h
    exact (same.push hpush).setPC _
  | jp | jpV0 =>
    obtain rfl := Host.Outcome.next.inj h
    exact same.setPC _
  | seImm | sneImm | seReg | sneReg =>
    obtain rfl := Host.Outcome.next.inj h
    exact same.skipIf _
  | skp x =>
    obtain ⟨_, _, rfl⟩ := execSkp_eq_next.mp h
    exact same.skipIf _
  | sknp x =>
    obtain ⟨_, _, rfl⟩ := execSknp_eq_next.mp h
    exact same.skipIf _
  | ldImm | addImm | ldReg | orReg | andReg | xorReg | rnd | ldVxDT =>
    obtain rfl := Host.Outcome.next.inj h
    exact (same.setV _ _).advance
  | addReg | subReg | shr | subn | shl =>
    obtain rfl := Host.Outcome.next.inj h
    exact (same.setVF _ _ _).advance
  | ldI | addI | ldF =>
    obtain rfl := Host.Outcome.next.inj h
    exact (same.setI _).advance
  | drw x y n =>
    obtain rfl := Host.Outcome.next.inj h
    exact (same.afterDraw _).advance
  | ldVxK x =>
    obtain ⟨_, _, rfl⟩ | ⟨_, rfl⟩ := execLdVxK_eq_next.mp h
    · exact (same.setV _ _).advance
    · exact same.emit _
  | ldDTVx x =>
    obtain rfl := Host.Outcome.next.inj h
    exact (same.setDT _).advance
  | ldSTVx x =>
    obtain rfl := Host.Outcome.next.inj h
    exact (same.setST _).advance
  | ldB | stRegs =>
    obtain rfl := Host.Outcome.next.inj h
    exact (same.writeBytes _ _).advance
  | ldRegs x =>
    obtain rfl := Host.Outcome.next.inj h
    exact (same.loadRegs _ _).advance
  | unknown op =>
    obtain rfl := Host.Outcome.next.inj h
    exact (same.emit _).advance

/-- An instruction that goes on changes no register it does not name. -/
theorem exec_getV {i : Instr} {s t : State} (h : exec i s = .next t) {r : Reg} (hr : ¬mayWriteReg i r) :
    t.getV r = s.getV r := by
  have frame := exec_frame h
  cases i with
  | ldImm | addImm | ldReg | orReg | andReg | xorReg | rnd | ldVxDT =>
    obtain rfl := Host.Outcome.next.inj h
    exact State.getV_setV_ne s _ hr
  | addReg x _ | subReg x _ | shr x _ | subn x _ | shl x _ =>
    obtain rfl := Host.Outcome.next.inj h
    obtain ⟨hx, hF⟩ : r ≠ x ∧ r ≠ vF := not_or.mp hr
    rw [State.advance_getV, State.getV_setVF, if_neg hF, if_neg hx]
  | drw x y n =>
    obtain rfl := Host.Outcome.next.inj h
    have hF : r ≠ vF := hr
    rw [State.advance_getV, State.getV_afterDraw, if_neg hF]
  | ldVxK x =>
    obtain ⟨_, _, rfl⟩ | ⟨_, rfl⟩ := execLdVxK_eq_next.mp h
    · exact State.getV_setV_ne s _ hr
    · rfl
  | ldRegs x =>
    obtain rfl := Host.Outcome.next.inj h
    have hx : ¬r.toNat ≤ x.toNat := hr
    have bound : 0 + (s.bytesAtI (x.toNat + 1)).length ≤ 16 := by simp; omega
    rw [State.advance_getV, State.getV_loadRegs _ _ _ bound, dif_neg (by simp; omega)]
  | _ => exact frame .regs (by simp [writeSet]) r

/-- An instruction that goes on changes no byte of memory outside the bytes it stores to. -/
theorem exec_readByte {i : Instr} {s t : State} (h : exec i s = .next t) {a : Nat} (ha : ¬mayWriteByte i s a) :
    t.readByte a = s.readByte a := by
  have frame := exec_frame h
  cases i with
  | ldB x =>
    obtain rfl := Host.Outcome.next.inj h
    exact State.readByte_writeBytes_other s _ _ a fun k hk hak => ha ⟨k, Nat.le_of_lt_succ hk, hak⟩
  | stRegs x =>
    obtain rfl := Host.Outcome.next.inj h
    refine State.readByte_writeBytes_other s _ _ a fun k hk hak => ha ⟨k, ?_, hak⟩
    rw [State.length_regsUpTo] at hk
    exact Nat.le_of_lt_succ hk
  | _ => exact frame .memory (by simp [writeSet]) a

/-- Settles O11: the frame of every instruction, from one rule per operation of the state. -/
theorem instructionsKeepTheirWriteSets : Obligations.InstructionsKeepTheirWriteSets :=
  fun _ _ _ h => ⟨exec_frame h, fun _ hr => exec_getV h hr, fun _ ha => exec_readByte h ha⟩

/-! ## The invariants of the state (R38) -/

theorem State.Inv.setST {s : State} (h : s.Inv) (b : Byte) : (s.setST b).Inv := by
  obtain ⟨hmem, hgate, hsize⟩ := h
  refine ⟨?_, State.setST_gate b hgate, ?_⟩
  · rwa [State.setST_eq]
  · rwa [State.setST_eq]

theorem State.Inv.writeBytes {s : State} (h : s.Inv) (a : Nat) (bs : List Byte) : (s.writeBytes a bs).Inv := by
  obtain ⟨hmem, hgate, hsize⟩ := h
  exact ⟨Memory.wf_writeBytes hmem a bs, hgate, hsize⟩

/-- An instruction that goes on keeps the invariants: only `SetST` and the stores to memory touch what they read. -/
theorem State.Inv.exec {i : Instr} {s t : State} (hs : s.Inv) (h : exec i s = .next t) : t.Inv := by
  cases i with
  | ret =>
    obtain ⟨_, _, hpop, rfl⟩ := execRet_eq_next.mp h
    obtain ⟨_, _, _, _, rfl⟩ := State.pop?_eq_some.mp hpop
    exact hs
  | call nnn =>
    obtain ⟨_, hpush, rfl⟩ := execCall_eq_next.mp h
    obtain ⟨_, rfl⟩ := State.push?_eq_some.mp hpush
    exact hs
  | skp x =>
    obtain ⟨_, _, rfl⟩ := execSkp_eq_next.mp h
    exact hs
  | sknp x =>
    obtain ⟨_, _, rfl⟩ := execSknp_eq_next.mp h
    exact hs
  | ldVxK x => obtain ⟨_, _, rfl⟩ | ⟨_, rfl⟩ := execLdVxK_eq_next.mp h <;> exact hs
  | drw x y n =>
    obtain rfl := Host.Outcome.next.inj h
    rw [State.afterDraw_eq]
    exact hs
  | ldRegs x =>
    obtain rfl := Host.Outcome.next.inj h
    rw [State.loadRegs_eq]
    exact hs
  | ldSTVx x =>
    obtain rfl := Host.Outcome.next.inj h
    exact hs.setST _
  | ldB | stRegs =>
    obtain rfl := Host.Outcome.next.inj h
    exact hs.writeBytes _ _
  | _ =>
    obtain rfl := Host.Outcome.next.inj h
    exact hs

/-- A `Step` that goes on, by its instruction or past a halt, keeps the invariants. -/
theorem State.Inv.invokeStep {s t : State} (hs : s.Inv) (h : invokeStep s = .next t) : t.Inv := by
  obtain hnext | ⟨_, _, _, rfl⟩ := invokeStep_eq_next.mp h
  · exact hs.exec (performStep_eq_next.mp hnext).2
  · exact hs

theorem State.Inv.timerTick {s : State} (hs : s.Inv) : s.timerTick.Inv := by
  rw [State.timerTick_eq]
  split
  · exact hs
  · exact State.Inv.setST (s := s.setDT (countDown s.dt)) hs _

theorem State.Inv.runEntry {s : State} (hs : s.Inv) : s.runEntry.Inv :=
  State.Inv.setST (s := { s with pc := BitVec.ofNat 16 Config.progBase, sp := 0, dt := 0, running := true }) hs 0

theorem State.Inv.loadProgram {bytes : List Byte} {s t : State} (hs : s.Inv)
    (h : loadProgram bytes s = .next t) : t.Inv := by
  obtain ⟨hsize, _, rfl⟩ := loadProgram_eq_next.mp h
  obtain ⟨hmem, hgate, _⟩ := hs.writeBytes 0x200 bytes
  exact ⟨hmem, hgate, hsize⟩

/-- Power-on meets the invariants whatever `FONT` is. -/
theorem State.inv_construct (s : State) : s.construct.Inv :=
  ⟨rfl, by simp [State.construct, State.reset], Nat.zero_le _⟩

/-- Settles O3: the operation performed is one of the host's six, and each keeps the invariants. -/
theorem stepKeepsTheInvariants : Obligations.StepKeepsTheInvariants := by
  intro s t hs h
  obtain ⟨q, rest, _, hstep⟩ | ⟨_, _, rfl⟩ | ⟨_, _, rfl⟩ | ⟨_, rest, _, hload⟩ | ⟨_, _, rfl⟩ | ⟨_, _, rfl⟩ :=
    step_cases h
  · exact State.Inv.invokeStep (s := s.beginStep q rest) hs hstep
  · exact State.Inv.timerTick (s := { s with script := _ }) hs
  · exact State.Inv.runEntry (s := { s with script := _ }) hs
  · exact State.Inv.loadProgram (s := { s with script := rest }) hs hload
  · exact State.inv_construct _
  · exact hs

/-- No entry of the stack is live at reset, so the bound on live entries holds of none. -/
theorem State.pcBounded_reset : State.reset.PcBounded :=
  ⟨Nat.zero_le _, Nat.zero_le _, fun k _ hk => absurd hk (Nat.not_lt_zero k)⟩

/-- Settles O2: reset is a power-on, and its stack is empty. -/
theorem resetMeetsTheInvariants : Obligations.ResetMeetsTheInvariants :=
  ⟨State.inv_construct State.reset, State.pcBounded_reset⟩

/-! ## The state after power-on (R39) -/

/-- Nothing is listed in memory at reset, so every byte reads as the reset content. -/
theorem State.readByte_reset {a : Nat} (h : a < 4096) :
    State.reset.readByte a = Memory.initial State.reset.font a := by
  simp [State.readByte, State.reset, Memory.read, Memory.find, Nat.mod_eq_of_lt h]

/-- Settles O1, element by element. -/
theorem resetIsPowerOn : Obligations.ResetIsPowerOn := by
  refine ⟨fun a h => ?_, fun a hlo hhi => ?_, fun r => ?_, rfl, rfl, rfl, fun k h => ?_, rfl, rfl, rfl,
    Framebuffer.pixel_clear, rfl, rfl, rfl⟩
  · rw [State.readByte_reset (by omega), Memory.initial, dif_pos h]
  · rw [State.readByte_reset hhi, Memory.initial, dif_neg (by omega)]
    rfl
  · simp [State.getV, State.reset]
  · simp [State.reset]

/-! ## What no instruction can see

`veil` replaces `I`, the inputs of the step and the counter of the free values. One theorem says that an instruction does the
same in a state and in its veiled copy. -/

/-- `s` with `I`, the inputs of the step and the counter of the free values replaced. -/
def State.veil (s : State) (w : Word) (q : Option StepInputs) (d : Nat) : State :=
  { s with i := w, inputs := q, draws := d }

/-- A relation on values of `I` that no instruction can break: equal addresses in memory, kept by `ADD I, Vx`. -/
structure IndexRel (R : Word → Word → Prop) : Prop where
  refl : ∀ a, R a a
  mod : ∀ {a b}, R a b → b.toNat % 4096 = a.toNat % 4096
  addWords : ∀ {a b}, R a b → ∀ c, R (addWords a c) (addWords b c)

theorem IndexRel.eq : IndexRel Eq :=
  ⟨fun _ => rfl, fun h => h ▸ rfl, fun h _ => h ▸ rfl⟩

/-- Equality of the low 12 bits, as `SameButHighI` has it (R25). -/
theorem IndexRel.low12 : IndexRel fun a b : Word => b.toNat % 4096 = a.toNat % 4096 where
  refl _ := rfl
  mod h := h
  addWords h c := by simp only [Sys2Proof.Machine.addWords, BitVec.toNat_ofNat]; omega

section
variable (s : State) (w : Word) (q : Option StepInputs) (d : Nat)

@[simp] theorem State.veil_pc : (s.veil w q d).pc = s.pc := rfl

@[simp] theorem State.veil_getV (r : Reg) : (s.veil w q d).getV r = s.getV r := rfl

/-- The veil does not hide the inputs when it is given the state's own. -/
theorem State.keyDownNow_veil : (s.veil w s.inputs s.draws).keyDownNow = s.keyDownNow := rfl

theorem State.keyTest_veil (k : Byte) : (s.veil w s.inputs s.draws).keyTest k = s.keyTest k := rfl

theorem State.push?_veil (a : Word) : (s.veil w q d).push? a = (s.push? a).map (·.veil w q d) := by
  by_cases h : s.sp.val < 16 <;> simp [State.push?, State.veil, h]

theorem State.pop?_veil : (s.veil w q d).pop? = s.pop?.map fun p => (p.1, p.2.veil w q d) := by
  by_cases h : 0 < s.sp.val <;> simp [State.pop?, State.veil, h]

theorem State.setST_veil (b : Byte) : (s.veil w q d).setST b = (s.setST b).veil w q d := by
  simp only [State.setST_eq]
  rfl

theorem State.afterDraw_veil (cv : Canvas) : (s.veil w q d).afterDraw cv = (s.afterDraw cv).veil w q d := by
  simp only [State.afterDraw_eq]
  rfl

theorem State.loadRegs_veil : ∀ (bs : List Byte) (s : State) (k : Nat),
    (s.veil w q d).loadRegs k bs = (s.loadRegs k bs).veil w q d
  | [], _, _ => rfl
  | b :: bs, s, k => State.loadRegs_veil bs (s.setV (BitVec.ofNat 4 k) b) (k + 1)

end

/-- Stores from addresses equal mod 4096 are the same stores (20_memory.md R61). -/
theorem Memory.writeBytes_congr_mod {font : Font} {a a' : Nat} (h : a' % 4096 = a % 4096) (m : Memory)
    (bs : List Byte) : m.writeBytes font a' bs = m.writeBytes font a bs := by
  induction bs generalizing m a a' with
  | nil => rfl
  | cons b bs ih =>
    have first : m.write font a' b = m.write font a b := by simp only [Memory.write, h]
    have shifted : (a' + 1) % 4096 = (a + 1) % 4096 := by omega
    rw [Memory.writeBytes, Memory.writeBytes, first, ih shifted]

section
variable {s : State} {w : Word} (q : Option StepInputs) (d : Nat)

theorem State.writeBytes_veil (h : w.toNat % 4096 = s.i.toNat % 4096) (bs : List Byte) :
    (s.veil w q d).writeBytes ((s.veil w q d).indexAddress 0) bs =
      (s.writeBytes (s.indexAddress 0) bs).veil w q d :=
  congrArg (fun m => { s.veil w q d with mem := m }) (Memory.writeBytes_congr_mod h s.mem bs)

theorem State.bytesAtI_veil (h : w.toNat % 4096 = s.i.toNat % 4096) (n : Nat) :
    (s.veil w q d).bytesAtI n = s.bytesAtI n := by
  refine List.map_congr_left fun k _ => ?_
  have hk : (w.toNat + k) % 4096 = (s.i.toNat + k) % 4096 := by omega
  calc s.readByte (w.toNat + k) = s.readByte ((w.toNat + k) % 4096) := (State.readByte_mod _ _).symm
    _ = s.readByte ((s.i.toNat + k) % 4096) := by rw [hk]
    _ = s.readByte (s.i.toNat + k) := State.readByte_mod _ _

end

/-- `veiled` is the outcome `plain` with its state veiled by a related `I` and the given inputs and counter. -/
def VeiledOutcome (R : Word → Word → Prop) (q : Option StepInputs) (d : Nat)
    (plain veiled : Host.Outcome State Fault Refusal) : Prop :=
  match plain with
  | .next t => ∃ w, R t.i w ∧ veiled = .next (t.veil w q d)
  | .fault f => veiled = .fault f
  | .refused r => veiled = .refused r

section
variable {R : Word → Word → Prop} {s : State} {w : Word} {q : Option StepInputs} {d : Nat}

/-- An update `t` of the state that keeps `I` and commutes with the veil. -/
theorem VeiledOutcome.advance (hw : R s.i w) {t t' : State} (hi : t.i = s.i) (ht : t' = t.veil w q d) :
    VeiledOutcome R q d (.next t.advance) (.next t'.advance) := by
  subst ht
  exact ⟨w, hi ▸ hw, rfl⟩

/-- An instruction does in a veiled state what it does in the plain one, where the inputs are the same if it reads one. -/
theorem exec_veil (hR : IndexRel R) {i : Instr} (hw : R s.i w)
    (hin : readsInputs i = true → q = s.inputs ∧ d = s.draws) :
    VeiledOutcome R q d (exec i s) (exec i (s.veil w q d)) := by
  cases i with
  | ldI | ldF => exact ⟨_, hR.refl _, rfl⟩
  | addI x => exact ⟨_, hR.addWords hw _, rfl⟩
  | rnd x kk =>
    obtain ⟨rfl, rfl⟩ := hin rfl
    exact ⟨w, hw, rfl⟩
  | ldVxK x =>
    obtain ⟨rfl, rfl⟩ := hin rfl
    simp only [exec, execLdVxK, State.keyDownNow_veil]
    cases s.keyDownNow with
    | some k => exact ⟨w, hw, rfl⟩
    | none => exact ⟨w, hw, rfl⟩
  | skp x =>
    obtain ⟨rfl, rfl⟩ := hin rfl
    simp only [exec, execSkp, State.keyTest_veil, State.veil_getV]
    cases s.keyTest (s.getV x) with
    | ok pressed => exact ⟨w, hw, rfl⟩
    | error r => rfl
  | sknp x =>
    obtain ⟨rfl, rfl⟩ := hin rfl
    simp only [exec, execSknp, State.keyTest_veil, State.veil_getV]
    cases s.keyTest (s.getV x) with
    | ok pressed => exact ⟨w, hw, rfl⟩
    | error r => rfl
  | ret =>
    simp only [exec, execRet, State.pop?_veil]
    cases hpop : s.pop? with
    | none => rfl
    | some popped =>
      obtain ⟨_, _, _, _, hu⟩ := State.pop?_eq_some.mp hpop
      exact ⟨w, by simpa [hu] using hw, rfl⟩
  | call nnn =>
    simp only [exec, execCall, State.push?_veil, State.veil_pc]
    cases hpush : s.push? s.pc with
    | none => rfl
    | some u =>
      obtain ⟨_, hu⟩ := State.push?_eq_some.mp hpush
      exact ⟨w, by simpa [hu] using hw, rfl⟩
  | ldSTVx x => exact .advance hw (by rw [State.setST_eq]) (State.setST_veil s w q d _)
  | drw x y n =>
    simp only [exec, execDrw, State.bytesAtI_veil q d (hR.mod hw)]
    exact .advance hw (by rw [State.afterDraw_eq]; rfl) (State.afterDraw_veil s w q d _)
  | ldB | stRegs => exact .advance hw rfl (State.writeBytes_veil q d (hR.mod hw) _)
  | ldRegs x =>
    simp only [exec, execLdRegs, State.bytesAtI_veil q d (hR.mod hw)]
    exact .advance hw (by rw [State.loadRegs_eq]) (State.loadRegs_veil w q d _ s 0)
  | _ => exact ⟨w, hw, rfl⟩

end

/-- Settles O15: `exec_veil` with `I` itself left as it is. -/
theorem inputsAreIgnoredByOtherInstructions : Obligations.InputsAreIgnoredByOtherInstructions := by
  intro i s q d hi
  have veiled : VeiledOutcome Eq q d (exec i s) (exec i (s.veil s.i q d)) :=
    exec_veil .eq rfl fun h => absurd h (by simp [hi])
  refine ⟨fun t ht => ?_, fun f hf => ?_⟩
  · rw [ht] at veiled
    obtain ⟨_, rfl, hnext⟩ := veiled
    exact hnext
  · rw [hf] at veiled
    exact veiled

/-! ## Bits 15..12 of `I` (R25) -/

theorem sameButHighI_iff {s s' : State} : SameButHighI s s' ↔
    ∃ w, s' = s.setI w ∧ w.toNat % 4096 = s.i.toNat % 4096 := by
  constructor
  · rintro ⟨hs, hw⟩
    exact ⟨s'.i, hs, hw⟩
  · rintro ⟨w, rfl, hw⟩
    exact ⟨rfl, hw⟩

section
variable {o : Host.Outcome State Fault Refusal}

theorem outcomesAgree_next {t : State} : OutcomesAgree (.next t) o ↔ ∃ t', o = .next t' ∧ SameButHighI t t' := by
  cases o <;> simp [OutcomesAgree]

theorem outcomesAgree_fault {f : Fault} : OutcomesAgree (.fault f) o ↔ o = .fault f := by
  cases o <;> simp [OutcomesAgree, eq_comm]

theorem outcomesAgree_refused {r : Refusal} : OutcomesAgree (.refused r) o ↔ o = .refused r := by
  cases o <;> simp [OutcomesAgree, eq_comm]

end

theorem sampling_notMem_writeSet (i : Instr) : .sampling ∉ writeSet i := by
  cases i <;> simp [writeSet]

namespace SameButHighI
variable {s s' : State}

/-- An instruction takes two states that differ only in bits 15..12 of `I` to outcomes that differ only there. -/
theorem exec (h : SameButHighI s s') (i : Instr) : OutcomesAgree (exec i s) (exec i s') := by
  obtain ⟨w, rfl, hw⟩ := sameButHighI_iff.mp h
  have veiled : VeiledOutcome _ s.inputs s.draws (Machine.exec i s) (Machine.exec i (s.setI w)) :=
    exec_veil .low12 hw fun _ => ⟨rfl, rfl⟩
  cases he : Machine.exec i s with
  | next t =>
    rw [he] at veiled
    obtain ⟨w', hw', ht⟩ := veiled
    obtain ⟨hq, hd⟩ := exec_frame he .sampling (sampling_notMem_writeSet i)
    rw [ht, ← hq, ← hd]
    exact ⟨rfl, hw'⟩
  | fault f => exact outcomesAgree_fault.mpr (by rwa [he] at veiled)
  | refused r => exact outcomesAgree_refused.mpr (by rwa [he] at veiled)

/-- The halt check and the fetch do not read `I`. -/
theorem performStep (h : SameButHighI s s') : OutcomesAgree (performStep s) (performStep s') := by
  have ran := h.exec (decode s.fetchWord)
  obtain ⟨w, rfl, hw⟩ := sameButHighI_iff.mp h
  have hpast : (s.setI w).pastEnd = s.pastEnd := rfl
  have hfetch : (s.setI w).fetchWord = s.fetchWord := rfl
  unfold Machine.performStep
  rw [hpast, hfetch]
  split
  · rfl
  · exact ran

/-- A `Step` returns to the host alike from outcomes that agree. -/
theorem returnFromStep (h : SameButHighI s s') {o o' : Host.Outcome State Fault Refusal}
    (ho : OutcomesAgree o o') : OutcomesAgree (s.returnFromStep o) (s'.returnFromStep o') := by
  obtain ⟨w, rfl, hw⟩ := sameButHighI_iff.mp h
  cases o with
  | next t =>
    obtain ⟨t', rfl, ht⟩ := outcomesAgree_next.mp ho
    exact ht
  | refused r =>
    obtain rfl := outcomesAgree_refused.mp ho
    rfl
  | fault f =>
    obtain rfl := outcomesAgree_fault.mp ho
    unfold State.returnFromStep
    rw [State.setI_script]
    cases s.script with
    | nil => rfl
    | cons op rest => exact ⟨rfl, hw⟩

theorem invokeStep (h : SameButHighI s s') : OutcomesAgree (invokeStep s) (invokeStep s') :=
  h.returnFromStep h.performStep

theorem beginStep (h : SameButHighI s s') (q : Option StepInputs) (rest : List HostOp) :
    SameButHighI (s.beginStep q rest) (s'.beginStep q rest) := by
  obtain ⟨w, rfl, hw⟩ := sameButHighI_iff.mp h
  exact ⟨rfl, hw⟩

theorem withScript (h : SameButHighI s s') (rest : List HostOp) :
    SameButHighI { s with script := rest } { s' with script := rest } := by
  obtain ⟨w, rfl, hw⟩ := sameButHighI_iff.mp h
  exact ⟨rfl, hw⟩

theorem timerTick (h : SameButHighI s s') : SameButHighI s.timerTick s'.timerTick := by
  obtain ⟨w, rfl, hw⟩ := sameButHighI_iff.mp h
  simp only [State.timerTick_eq, State.setST_eq, State.setI_st]
  split
  · exact ⟨rfl, hw⟩
  · exact ⟨rfl, hw⟩

/-- `RunEntry` and `Construct` make `I` zero, so the two states are the same after them. -/
theorem runEntry (h : SameButHighI s s') : SameButHighI s.runEntry s'.runEntry := by
  obtain ⟨w, rfl, _⟩ := sameButHighI_iff.mp h
  rw [State.runEntry_eq, State.runEntry_eq]
  exact ⟨rfl, rfl⟩

theorem construct (h : SameButHighI s s') : SameButHighI s.construct s'.construct := by
  obtain ⟨w, rfl, _⟩ := sameButHighI_iff.mp h
  exact ⟨rfl, rfl⟩

theorem stop (h : SameButHighI s s') : SameButHighI s.stop s'.stop := by
  obtain ⟨w, rfl, hw⟩ := sameButHighI_iff.mp h
  exact ⟨rfl, hw⟩

/-- Whether a program may be loaded, and where its bytes go, does not depend on `I`. -/
theorem loadProgram (h : SameButHighI s s') (bytes : List Byte) :
    OutcomesAgree (loadProgram bytes s) (loadProgram bytes s') := by
  obtain ⟨w, rfl, hw⟩ := sameButHighI_iff.mp h
  have hrun : (s.setI w).inRun = s.inRun := rfl
  unfold Machine.loadProgram
  rw [hrun]
  split
  · rfl
  · split
    · rfl
    · exact ⟨rfl, hw⟩

end SameButHighI

/-- Settles O14: every operation the step may perform keeps the relation. -/
theorem highBitsOfIndexAreUnobservable : Obligations.HighBitsOfIndexAreUnobservable := by
  intro s s' h
  have hscript : s'.script = s.script := by rw [h.1]
  unfold step
  rw [hscript]
  cases s.script with
  | nil => exact (h.beginStep none []).invokeStep
  | cons op rest =>
    have moved := h.withScript rest
    cases op with
    | step q => exact (h.beginStep q rest).invokeStep
    | timerTick => exact moved.timerTick
    | runEntry => exact moved.runEntry
    | loadProgram bytes => exact moved.loadProgram bytes
    | construct => exact moved.construct
    | stop => exact moved.stop

end Sys2Proof.Machine
end

/-! # Memory: the fetch, what a store does to it, and the canonical form (20_memory.md) -/

section
namespace Sys2Proof.Machine

/-! ## Reads at equal addresses mod 4096 (R61) -/

theorem State.readByte_congr_mod (s : State) {a a' : Nat} (h : a % 4096 = a' % 4096) :
    s.readByte a = s.readByte a' := by
  rw [← State.readByte_mod s a, h, State.readByte_mod]

/-- A stored byte is read at every address that reduces to its own. -/
theorem State.readByte_writeBytes_of_mod_eq (s : State) {a q k : Nat} {bs : List Byte} (hk : k < bs.length)
    (hlen : bs.length ≤ 4096) (hq : q % 4096 = (a + k) % 4096) : (s.writeBytes a bs).readByte q = bs[k] := by
  rw [State.readByte_congr_mod _ hq, State.readByte_writeBytes_mem s a bs k hk hlen]

/-- The state after `Fx55` but for `PC`: register `k` lies where its address reduces to (43_index_memory.md R174). -/
theorem State.readByte_storeRegs (s : State) {x : Reg} {q k : Nat} (hk : k ≤ x.toNat)
    (hq : q % 4096 = (s.i.toNat + k) % 4096) :
    (s.writeBytes (s.indexAddress 0) (s.regsUpTo x)).readByte q = s.getV (BitVec.ofNat 4 k) := by
  have hlen : (s.regsUpTo x).length = x.toNat + 1 := s.length_regsUpTo x
  have hx : x.toNat < 16 := x.isLt
  calc (s.writeBytes (s.indexAddress 0) (s.regsUpTo x)).readByte q
    _ = (s.regsUpTo x)[k] := s.readByte_writeBytes_of_mod_eq (by omega) (by omega) hq
    _ = s.getV (BitVec.ofNat 4 k) := s.getElem_regsUpTo x k _

/-! ## The fetch (R62) -/

theorem toNat_wordOfBytes (hi lo : Byte) : (wordOfBytes hi lo).toNat = hi.toNat * 256 + lo.toNat := by
  rw [wordOfBytes, BitVec.toNat_append, ← Nat.shiftLeft_add_eq_or_of_lt lo.isLt, Nat.shiftLeft_eq]

theorem State.fetchWord_eq (s : State) :
    s.fetchWord = wordOfBytes (s.readByte s.pc.toNat) (s.readByte (s.pc.toNat + 1)) := rfl

/-- Settles O7: the word of the two bytes at `PC`, whose addresses the memory port reduces. -/
theorem fetchIsBigEndian : Obligations.FetchIsBigEndian := by
  intro s
  rw [State.fetchWord_eq, toNat_wordOfBytes, State.readByte_mod, State.readByte_mod]

/-- Settles O22: the registers `k` and `k + 1` are stored at the addresses of the two bytes fetched next. -/
theorem storesAreSeenByTheNextFetch : Obligations.StoresAreSeenByTheNextFetch := by
  intro s x k hk haddr
  refine ⟨_, rfl, ?_⟩
  rw [State.fetchWord_eq, State.advance_readByte, State.advance_readByte, State.advance_pc, State.writeBytes_pc,
    State.readByte_storeRegs s hk.le haddr.symm, State.readByte_storeRegs s (k := k + 1) hk (by omega)]

/-! ## An opcode placed in memory is the next one run (R62, 40_step_engine.md R120) -/

theorem decodeTableWord_eq (nbits w : Nat) :
    decodeTableWord nbits w = some (decode (BitVec.ofNat 16 (w % 2 ^ nbits))) :=
  congrArg (fun op => some (decode op)) (wordOfBytes_bytesOfWord _)

/-- An opcode stored at `a` as the hardware lays it out is read back at `a`. -/
theorem State.readWord_writeBytes_bytesOfWord (s : State) (a : Nat) (op : Word) :
    (s.writeBytes a (bytesOfWord op)).readWord a = op := by
  have stored (k : Nat) (hk : k < 2) : (s.writeBytes a (bytesOfWord op)).readByte (a + k) = (bytesOfWord op)[k] :=
    s.readByte_writeBytes_mem a (bytesOfWord op) k hk (by simp [bytesOfWord])
  calc (s.writeBytes a (bytesOfWord op)).readWord a
    _ = wordOfBytes (op.extractLsb' 8 8) (op.extractLsb' 0 8) :=
      congrArg₂ wordOfBytes (stored 0 (by omega)) (stored 1 (by omega))
    _ = op := wordOfBytes_bytesOfWord op

theorem State.fetchWord_withFetchWord (s : State) (nbits w : Nat) :
    (s.withFetchWord nbits w).fetchWord = BitVec.ofNat 16 (w % 2 ^ nbits) :=
  State.readWord_writeBytes_bytesOfWord s _ _

/-- The halt check passes where the word is placed: at `PC` if it does there, and else at 0x200. -/
theorem State.pastEnd_withFetchWord (s : State) (nbits w : Nat) : (s.withFetchWord nbits w).pastEnd = false := by
  rw [State.pastEnd_eq_false]
  change (if s.pastEnd then BitVec.ofNat 16 Config.progBase else s.pc).toNat ≤ 0x200 + s.psize
  cases hpast : s.pastEnd with
  | true => exact Nat.le_add_right _ _
  | false => exact State.pastEnd_eq_false.mp hpast

theorem step_of_script_nil {s : State} (h : s.script = []) : step s = invokeStep (s.beginStep none []) := by
  rw [step, h]

theorem step_of_script_step {s : State} {q : Option StepInputs} {rest : List HostOp} (h : s.script = .step q :: rest) :
    step s = invokeStep (s.beginStep q rest) := by
  rw [step, h]

theorem stepNext_cases (script : List HostOp) :
    stepNext script = [] ∨ ∃ q rest, stepNext script = .step q :: rest := by
  cases script with
  | nil => exact .inl rfl
  | cons op rest => cases op <;> exact .inr ⟨_, _, rfl⟩

/-- After `withFetchWord` the host's next operation is a `Step`. -/
theorem State.step_withFetchWord (s : State) (nbits w : Nat) : ∃ q rest,
    step (s.withFetchWord nbits w) = invokeStep ((s.withFetchWord nbits w).beginStep q rest) := by
  obtain hnil | ⟨q, rest, hstep⟩ := stepNext_cases s.script
  · exact ⟨none, [], step_of_script_nil hnil⟩
  · exact ⟨q, rest, step_of_script_step hstep⟩

/-- `returnFromStep` is the return to the host that `ReturnsFromStep` describes. -/
theorem State.returnsFromStep_returnFromStep (s : State) (executed : Host.Outcome State Fault Refusal) :
    ReturnsFromStep s executed (s.returnFromStep executed) := by
  refine ⟨?_, ?_, ?_, ?_⟩
  · rintro t rfl
    rfl
  · rintro r rfl
    rfl
  · rintro f rfl hnil
    simp [State.returnFromStep, hnil]
  · rintro f rfl hne
    obtain ⟨op, rest, hcons⟩ := List.exists_cons_of_ne_nil hne
    simp [State.returnFromStep, hcons]

/-- A `Step` that passes the halt check executes the decoded word and returns to the host from it (R120). -/
theorem State.returnsFromStep_invokeStep {s : State} (h : s.pastEnd = false) :
    ReturnsFromStep s (exec (decode s.fetchWord) s) (invokeStep s) := by
  have performs : performStep s = exec (decode s.fetchWord) s := by simp [performStep, h]
  rw [invokeStep, performs]
  exact s.returnsFromStep_returnFromStep _

/-- Settles O8: the word placed passes the halt check and is the word fetched. -/
theorem fetchWordIsRunNext : Obligations.FetchWordIsRunNext := by
  intro s nbits w
  obtain ⟨q, rest, hstep⟩ := s.step_withFetchWord nbits w
  refine ⟨_, q, rest, decodeTableWord_eq nbits w, ?_⟩
  rw [hstep, ← s.fetchWord_withFetchWord nbits w]
  exact State.returnsFromStep_invokeStep (s := (s.withFetchWord nbits w).beginStep q rest)
    (s.pastEnd_withFetchWord nbits w)

/-! ## The canonical form is unique (R60, 10_state.md R21) -/

/-- A canonical list lists addresses below 4096 only, and no byte equal to the reset content. -/
theorem Memory.find_eq_some {font : Font} {a : Nat} {b : Byte} : ∀ {lo : Nat} {m : Memory},
    Memory.wfFrom font lo m = true → Memory.find m a = some b → a < 4096 ∧ b ≠ Memory.initial font a
  | _, [], _, h => by simp [Memory.find] at h
  | _, (a', b') :: m, hm, h => by
    obtain ⟨_, ha', hb', hrest⟩ := Memory.wfFrom_cons.mp hm
    unfold Memory.find at h
    split at h
    case isTrue heq =>
      obtain rfl := heq
      obtain rfl := Option.some.inj h
      exact ⟨ha', hb'⟩
    case isFalse => exact Memory.find_eq_some hrest h

/-- In canonical form a byte is listed exactly when it reads as something else than the reset content. -/
theorem Memory.find_eq_some_iff_read {font : Font} {m : Memory} (hm : m.wf font = true) {a : Nat} {b : Byte} :
    Memory.find m a = some b ↔ a < 4096 ∧ m.read font a = b ∧ b ≠ Memory.initial font a := by
  constructor
  · intro h
    obtain ⟨ha, hb⟩ := Memory.find_eq_some hm h
    exact ⟨ha, by simp [Memory.read, Nat.mod_eq_of_lt ha, h], hb⟩
  · rintro ⟨ha, hread, hb⟩
    rw [Memory.read, Nat.mod_eq_of_lt ha] at hread
    cases h : Memory.find m a with
    | none => exact absurd (by simpa [h] using hread.symm) hb
    | some c => simpa [h] using hread

/-- Nothing is listed below the first listed address. -/
theorem Memory.head_le_of_find {font : Font} {lo a a' : Nat} {b b' : Byte} {m : Memory}
    (hm : Memory.wfFrom font lo ((a, b) :: m) = true) (hfind : Memory.find ((a, b) :: m) a' = some b') : a ≤ a' := by
  obtain ⟨_, htail⟩ := Memory.wfFrom_cons.mp hm
  have hfrom : Memory.wfFrom font a ((a, b) :: m) = true := Memory.wfFrom_cons.mpr ⟨le_rfl, htail⟩
  by_contra hlt
  rw [Memory.find_below hfrom (Nat.not_le.mp hlt)] at hfind
  contradiction

theorem Memory.find_head (a : Nat) (b : Byte) (m : Memory) : Memory.find ((a, b) :: m) a = some b :=
  if_pos rfl

/-- Past its first entry a canonical list lists what its tail lists. -/
theorem Memory.find_tail {font : Font} {a q : Nat} {b : Byte} {m : Memory}
    (hm : Memory.wfFrom font (a + 1) m = true) :
    Memory.find m q = if q = a then none else Memory.find ((a, b) :: m) q := by
  split
  case isTrue heq => exact Memory.find_below hm (by omega)
  case isFalse hne => exact (if_neg (Ne.symm hne)).symm

/-- Canonical lists that list the same bytes are equal: their first addresses are each the least one listed. -/
theorem Memory.eq_of_find_eq {font : Font} : ∀ {lo : Nat} {m m' : Memory}, Memory.wfFrom font lo m = true →
    Memory.wfFrom font lo m' = true → (∀ q, Memory.find m q = Memory.find m' q) → m = m'
  | _, [], [], _, _, _ => rfl
  | _, [], (a, b) :: m', _, _, h => nomatch (h a).trans (Memory.find_head a b m')
  | _, (a, b) :: m, [], _, _, h => nomatch (h a).symm.trans (Memory.find_head a b m)
  | _, (a, b) :: m, (a', b') :: m', hm, hm', h => by
    have found : Memory.find ((a, b) :: m) a' = some b' := (h a').trans (Memory.find_head a' b' m')
    have found' : Memory.find ((a', b') :: m') a = some b := (h a).symm.trans (Memory.find_head a b m)
    obtain rfl : a = a' := (Memory.head_le_of_find hm found).antisymm (Memory.head_le_of_find hm' found')
    obtain rfl : b = b' := Option.some.inj ((Memory.find_head a b m).symm.trans found)
    obtain ⟨_, _, _, htail⟩ := Memory.wfFrom_cons.mp hm
    obtain ⟨_, _, _, htail'⟩ := Memory.wfFrom_cons.mp hm'
    have tails : m = m' := Memory.eq_of_find_eq htail htail' fun q => by
      rw [Memory.find_tail (b := b) htail, Memory.find_tail (b := b) htail', h q]
    rw [tails]

/-- Settles O21: the reads determine the listed bytes, and those the list. -/
theorem canonicalMemoryIsUnique : Obligations.CanonicalMemoryIsUnique := by
  intro font m m' hm hm' hread
  refine Memory.eq_of_find_eq hm hm' fun q => Option.ext fun b => ?_
  rw [Memory.find_eq_some_iff_read hm, Memory.find_eq_some_iff_read hm', hread q]

end Sys2Proof.Machine
end

/-! # The encoding: the decoder and the encoder are inverse, and agree with the opcode map (30_encoding.md) -/

section
namespace Sys2Proof

/-! ## The words of no row (R96) -/

/-- The four sets of R96, on the fields of R91. -/
theorem isUnknownWord_iff {w : Word} : isUnknownWord w = true ↔
    (fieldT w = 0x0#4 ∧ w ≠ 0x00E0#16 ∧ w ≠ 0x00EE#16) ∨ (fieldT w = 0x8#4 ∧ fieldN w ∉ family8Codes) ∨
    (fieldT w = 0xE#4 ∧ fieldKK w ∉ familyECodes) ∨ (fieldT w = 0xF#4 ∧ fieldKK w ∉ familyFCodes) := by
  simp [isUnknownWord, fieldT, fieldN, fieldKK, and_assoc, or_assoc]

theorem decode8_eq_unknown {w : Word} (h : fieldN w ∉ family8Codes) : decode8 w = .unknown w := by
  unfold decode8
  split
  case h_10 => rfl
  all_goals next hcode => exact absurd (hcode ▸ by decide) h

theorem decodeE_eq_unknown {w : Word} (h : fieldKK w ∉ familyECodes) : decodeE w = .unknown w := by
  unfold decodeE
  split
  case h_3 => rfl
  all_goals next hcode => exact absurd (hcode ▸ by decide) h

theorem decodeF_eq_unknown {w : Word} (h : fieldKK w ∉ familyFCodes) : decodeF w = .unknown w := by
  unfold decodeF
  split
  case h_10 => rfl
  all_goals next hcode => exact absurd (hcode ▸ by decide) h

/-- A word of one of the four sets selects no instruction. -/
theorem decode_eq_unknown {w : Word} (h : isUnknownWord w = true) : decode w = .unknown w := by
  obtain ⟨ht, hcls, hret⟩ | ⟨ht, hn⟩ | ⟨ht, hkk⟩ | ⟨ht, hkk⟩ := isUnknownWord_iff.mp h
  · simp [decode, decode0, ht, hcls, hret]
  · simp [decode, ht, decode8_eq_unknown hn]
  · simp [decode, ht, decodeE_eq_unknown hkk]
  · simp [decode, ht, decodeF_eq_unknown hkk]

/-! ## Decoding an encoding (R94) -/

/-- Settles O16: the word of an instruction is put together by a format, whose fields the decoder reads back; an unknown word
lies in one of the four sets. -/
theorem decodeOfEncodeIsTheInstruction : Obligations.DecodeOfEncodeIsTheInstruction := by
  intro i hi
  cases i with
  | unknown op => exact decode_eq_unknown hi
  | cls | ret => decide
  | jp | call | ldI | jpV0 => simp [encode, decode]
  | seImm | sneImm | ldImm | addImm | rnd => simp [encode, decode]
  | seReg | sneReg | drw => simp [encode, decode]
  | ldReg | orReg | andReg | xorReg | addReg | subReg | shr | subn | shl => simp [encode, decode, decode8]
  | skp | sknp => simp [encode, decode, decodeE]
  | ldVxDT | ldVxK | ldDTVx | ldSTVx | addI | ldF | ldB | stRegs | ldRegs => simp [encode, decode, decodeF]

/-! ## Encoding a decoding (R94): the decoder drops no bit -/

section
variable {w : Word} {t : BitVec 4}

theorem formatNNN_of_fieldT (ht : fieldT w = t) : formatNNN t (fieldNNN w) = w := by
  rw [← ht, formatNNN_fields]

theorem formatXKK_of_fields {kk : Byte} (ht : fieldT w = t) (hkk : fieldKK w = kk) :
    formatXKK t (fieldX w) kk = w := by
  rw [← ht, ← hkk, formatXKK_fields]

theorem formatXYN_of_fields {n : Nibble} (ht : fieldT w = t) (hn : fieldN w = n) :
    formatXYN t (fieldX w) (fieldY w) n = w := by
  rw [← ht, ← hn, formatXYN_fields]

/-- `w` is the word of the well-formed instruction `i`. -/
def Instr.HasWord (i : Instr) (w : Word) : Prop := i.wf = true ∧ encode i = w

theorem hasWord_unknown (h : isUnknownWord w = true) : (Instr.unknown w).HasWord w := ⟨h, rfl⟩

theorem decode0_hasWord (ht : fieldT w = 0x0#4) : (decode0 w).HasWord w := by
  unfold decode0
  split_ifs with hcls hret
  · exact ⟨rfl, hcls.symm⟩
  · exact ⟨rfl, hret.symm⟩
  · exact hasWord_unknown (isUnknownWord_iff.mpr (.inl ⟨ht, hcls, hret⟩))

theorem decode8_hasWord (ht : fieldT w = 0x8#4) : (decode8 w).HasWord w := by
  unfold decode8
  split
  case h_10 => exact hasWord_unknown (isUnknownWord_iff.mpr (.inr (.inl ⟨ht, by simp_all [family8Codes]⟩)))
  all_goals exact ⟨rfl, formatXYN_of_fields ht ‹_›⟩

theorem decodeE_hasWord (ht : fieldT w = 0xE#4) : (decodeE w).HasWord w := by
  unfold decodeE
  split
  case h_3 => exact hasWord_unknown (isUnknownWord_iff.mpr (.inr (.inr (.inl ⟨ht, by simp_all [familyECodes]⟩))))
  all_goals exact ⟨rfl, formatXKK_of_fields ht ‹_›⟩

theorem decodeF_hasWord (ht : fieldT w = 0xF#4) : (decodeF w).HasWord w := by
  unfold decodeF
  split
  case h_10 => exact hasWord_unknown (isUnknownWord_iff.mpr (.inr (.inr (.inr ⟨ht, by simp_all [familyFCodes]⟩))))
  all_goals exact ⟨rfl, formatXKK_of_fields ht ‹_›⟩

theorem decode_hasWord (w : Word) : (decode w).HasWord w := by
  unfold decode
  split
  case h_1 ht => exact decode0_hasWord ht
  case h_9 ht => exact decode8_hasWord ht
  case h_15 ht => exact decodeE_hasWord ht
  case h_16 =>
    have ht : fieldT w = 0xF#4 := by
      generalize fieldT w = t at *
      decide +revert
    exact decodeF_hasWord ht
  case h_2 ht | h_3 ht | h_11 ht | h_12 ht => exact ⟨rfl, formatNNN_of_fieldT ht⟩
  case h_4 ht | h_5 ht | h_7 ht | h_8 ht | h_13 ht => exact ⟨rfl, formatXKK_of_fields ht rfl⟩
  case h_6 ht | h_10 ht | h_14 ht => exact ⟨rfl, formatXYN_of_fields ht rfl⟩

end

/-- Settles O17: in every family the decoded fields, put together by the family's format, are the word. -/
theorem encodeOfDecodeIsTheWord : Obligations.EncodeOfDecodeIsTheWord := decode_hasWord

/-- The decoder finds the one instruction that has the word. -/
theorem decode_eq_iff_hasWord {w : Word} {i : Instr} : decode w = i ↔ i.HasWord w := by
  constructor
  · rintro rfl
    exact decode_hasWord w
  · rintro ⟨hwf, rfl⟩
    exact decodeOfEncodeIsTheInstruction i hwf

/-! ## The opcode map (R95, R101) -/

/-- A masked word and its masked value agree on a field that the mask keeps. -/
theorem extractLsb'_of_and_eq {w m v : Word} {start len : Nat} (h : w &&& m = v)
    (hm : m.extractLsb' start len = BitVec.allOnes len) : w.extractLsb' start len = v.extractLsb' start len := by
  rw [← h, BitVec.extractLsb'_and, hm, BitVec.and_allOnes]

/-- The bits of a word that the decoder dispatches on (R94): the top nibble, and with it the second opcode of the families
that have one. -/
def dispatchMask (w : Word) : Word :=
  match fieldT w with
  | 0x0#4 => 0xFFFF
  | 0x8#4 => 0xF00F
  | 0xE#4 => 0xF0FF
  | 0xF#4 => 0xF0FF
  | _ => 0xF000

theorem fieldT_dispatchMask (w : Word) : fieldT (dispatchMask w) = BitVec.allOnes 4 := by
  unfold dispatchMask
  split <;> rfl

theorem row_decode8_congr {v w : Word} (h : fieldN w = fieldN v) : (decode8 w).row = (decode8 v).row := by
  unfold decode8
  rw [h]
  split <;> rfl

theorem row_decodeE_congr {v w : Word} (h : fieldKK w = fieldKK v) : (decodeE w).row = (decodeE v).row := by
  unfold decodeE
  rw [h]
  split <;> rfl

theorem row_decodeF_congr {v w : Word} (h : fieldKK w = fieldKK v) : (decodeF w).row = (decodeF v).row := by
  unfold decodeF
  rw [h]
  split <;> rfl

/-- The row of a decoded word depends only on the bits dispatched on. -/
theorem row_decode_of_and_dispatchMask {v w : Word} (h : w &&& dispatchMask v = v) :
    (decode w).row = (decode v).row := by
  have ht : fieldT w = fieldT v := extractLsb'_of_and_eq h (fieldT_dispatchMask v)
  unfold decode
  rw [ht]
  split
  case h_1 hv =>
    have hw : w = v := by
      rw [← h, dispatchMask, hv]
      exact BitVec.and_allOnes.symm
    rw [hw]
  case h_9 hv => exact row_decode8_congr (extractLsb'_of_and_eq h (by rw [dispatchMask, hv]; rfl))
  case h_15 hv => exact row_decodeE_congr (extractLsb'_of_and_eq h (by rw [dispatchMask, hv]; rfl))
  case h_16 =>
    have hv : fieldT v = 0xF#4 := by
      clear ht h
      generalize fieldT v = t at *
      decide +revert
    exact row_decodeF_congr (extractLsb'_of_and_eq h (by rw [dispatchMask, hv]; rfl))
  all_goals rfl

/-- A row masks the bits dispatched on, and its `match` is a word of its own instruction. -/
theorem opcodeMap_masks_dispatch {r : Word × Word} (hr : r ∈ opcodeMap) :
    r.1 = dispatchMask r.2 ∧ (decode r.2).row = some r := by
  have checked : (opcodeMap.all fun r => r.1 == dispatchMask r.2 && (decode r.2).row == some r) = true := by decide
  simpa only [Bool.and_eq_true, beq_iff_eq] using List.all_eq_true.mp checked r hr

theorem row_mem_opcodeMap {i : Instr} {r : Word × Word} (h : i.row = some r) : r ∈ opcodeMap := by
  cases i with
  | unknown => contradiction
  | _ =>
    obtain rfl := Option.some.inj h
    decide

open Laws.SelectsItsRow in
theorem selectsItsRow : ∀ i : Instr, Laws.SelectsItsRow.Statement i
  | .cls => cls
  | .ret => ret
  | .jp nnn => jp nnn
  | .call nnn => call nnn
  | .seImm x kk => seImm x kk
  | .sneImm x kk => sneImm x kk
  | .seReg x y n => seReg x y n
  | .ldImm x kk => ldImm x kk
  | .addImm x kk => addImm x kk
  | .ldReg x y => ldReg x y
  | .orReg x y => orReg x y
  | .andReg x y => andReg x y
  | .xorReg x y => xorReg x y
  | .addReg x y => addReg x y
  | .subReg x y => subReg x y
  | .shr x y => shr x y
  | .subn x y => subn x y
  | .shl x y => shl x y
  | .sneReg x y n => sneReg x y n
  | .ldI nnn => ldI nnn
  | .jpV0 nnn => jpV0 nnn
  | .rnd x kk => rnd x kk
  | .drw x y n => drw x y n
  | .skp x => skp x
  | .sknp x => sknp x
  | .ldVxDT x => ldVxDT x
  | .ldVxK x => ldVxK x
  | .ldDTVx x => ldDTVx x
  | .ldSTVx x => ldSTVx x
  | .addI x => addI x
  | .ldF x => ldF x
  | .ldB x => ldB x
  | .stRegs x => stRegs x
  | .ldRegs x => ldRegs x
  | .unknown op => unknown op

theorem encode_and_mask {i : Instr} {r : Word × Word} (h : i.row = some r) : encode i &&& r.1 = r.2 := by
  have := selectsItsRow i
  simpa only [Laws.SelectsItsRow.Statement, h] using this

/-- The row of the decoded instruction is the row of the map that selects the word. -/
theorem row_decode_eq_some_iff {w : Word} {r : Word × Word} :
    (decode w).row = some r ↔ r ∈ opcodeMap ∧ w &&& r.1 = r.2 := by
  constructor
  · intro h
    obtain ⟨_, hencode⟩ := decode_hasWord w
    exact ⟨row_mem_opcodeMap h, hencode ▸ encode_and_mask h⟩
  · rintro ⟨hr, hsel⟩
    obtain ⟨hmask, hmatch⟩ := opcodeMap_masks_dispatch hr
    rw [hmask] at hsel
    rw [row_decode_of_and_dispatchMask hsel, hmatch]

/-- A list without duplicates whose members are those of an option is that option's list. -/
theorem eq_toList_of_nodup {α : Type} {l : List α} {o : Option α} (hl : l.Nodup) (h : ∀ a, a ∈ l ↔ o = some a) :
    l = o.toList := by
  cases o with
  | none => exact List.eq_nil_iff_forall_not_mem.mpr fun a ha => nomatch (h a).mp ha
  | some b =>
    refine List.perm_singleton.mp ((List.perm_ext_iff_of_nodup hl (List.nodup_singleton b)).mpr fun a => ?_)
    simp [h, eq_comm]

theorem nodup_opcodeMap : opcodeMap.Nodup := by decide

/-- Settles O18: the rows that select a word are those of the decoded instruction, and no row stands twice in the map. -/
theorem decoderIsTheOpcodeMap : Obligations.DecoderIsTheOpcodeMap := by
  intro w
  refine eq_toList_of_nodup (nodup_opcodeMap.filter _) fun r => ?_
  rw [List.mem_filter, beq_iff_eq, row_decode_eq_some_iff]

/-! ## The four sets as numbers (R96), and words written out -/

section
variable (w : Word)

theorem toNat_fieldT : (fieldT w).toNat = w.toNat / 4096 := by
  rw [fieldT, BitVec.extractLsb'_toNat, Nat.shiftRight_eq_div_pow]
  omega

theorem toNat_fieldN : (fieldN w).toNat = w.toNat % 16 := by
  rw [fieldN, BitVec.extractLsb'_toNat, Nat.shiftRight_zero]

theorem toNat_fieldKK : (fieldKK w).toNat = w.toNat % 256 := by
  rw [fieldKK, BitVec.extractLsb'_toNat, Nat.shiftRight_zero]

end

theorem decode_eq_unknown_iff {w : Word} : decode w = .unknown w ↔ isUnknownWord w = true := by
  rw [decode_eq_iff_hasWord]
  exact and_iff_left rfl

/-- Settles O19: a word decodes to `unknown` exactly when it lies in one of the four sets, each read off its numbers. -/
theorem unknownWordsAreTheFourSets : Obligations.UnknownWordsAreTheFourSets := by
  intro w
  have hw : w.toNat < 65536 := w.isLt
  rw [decode_eq_unknown_iff, isUnknownWord_iff]
  simp only [family8Codes, familyECodes, familyFCodes, List.mem_cons, List.not_mem_nil, or_false, not_or, ne_eq,
    ← BitVec.toNat_inj, BitVec.toNat_ofNat, toNat_fieldT, toNat_fieldN, toNat_fieldKK]
  exact or_congr (by omega) (or_congr (by omega) (or_congr (by omega) (by omega)))

/-- Settles O20, by running the decoder on each of the words. -/
theorem writtenOutWordsDecode : Obligations.WrittenOutWordsDecode := by
  unfold Obligations.WrittenOutWordsDecode
  decide

end Sys2Proof
end

/-! # The step engine: the halt check, the instruction run, and where `PC` goes (40_step_engine.md) -/

section
namespace Sys2Proof.Machine

/-! ## The halt check, and the instruction run past it (R120, R121) -/

theorem State.pastEnd_eq_true {s : State} : s.pastEnd = true ↔ 0x200 + s.psize < s.pc.toNat :=
  decide_eq_true_iff

theorem performStep_of_pastEnd {s : State} (h : s.pastEnd = true) : performStep s = .fault (.pcPastEnd s.pc) :=
  performStep_eq_fault.mpr (.inl ⟨h, rfl⟩)

/-- Settles O5: not past the end, the `Step` begun with the scheduled inputs, or with free ones, returns from the decoded
instruction. -/
theorem stepRunsTheDecodedInstruction : Obligations.StepRunsTheDecodedInstruction := by
  rintro s i hpc rfl
  have hpast : s.pastEnd = false := State.pastEnd_eq_false.mpr hpc
  refine ⟨fun q rest hs => ?_, fun hs => ?_⟩
  · rw [step_of_script_step hs]
    exact State.returnsFromStep_invokeStep (s := s.beginStep q rest) hpast
  · have begun : s.beginStep none [] = { s with inputs := none, draws := s.draws + 1, result := none } := by
      rw [State.beginStep, ← hs]
    rw [step_of_script_nil hs, ← begun]
    exact State.returnsFromStep_invokeStep hpast

namespace FrameBut
variable {l : List Part} {s t : State}

theorem beginStep (h : FrameBut l s t) (q : Option StepInputs) (rest : List HostOp)
    (hsched : .schedule ∈ l := by simp) (hsamp : .sampling ∈ l := by simp) (hres : .result ∈ l := by simp) :
    FrameBut l s (t.beginStep q rest) := fun p hp => by
  cases p with
  | schedule => exact absurd hsched hp
  | sampling => exact absurd hsamp hp
  | result => exact absurd hres hp
  | _ => exact h _ hp

theorem noteResult (h : FrameBut l s t) (r : Option Fault) (hl : .result ∈ l := by simp) :
    FrameBut l s { t with result := r } := fun p hp => by
  cases p with
  | result => exact absurd hl hp
  | _ => exact h _ hp

end FrameBut

/-- Settles O6: past the end the `Step` halts, and the rest of the schedule decides how that is answered. -/
theorem pcPastTheEndHalts : Obligations.PcPastTheEndHalts := by
  intro s hpc
  have halts (q : Option StepInputs) (rest : List HostOp) :
      performStep (s.beginStep q rest) = .fault (.pcPastEnd s.pc) :=
    performStep_of_pastEnd (State.pastEnd_eq_true.mpr hpc)
  refine ⟨fun hs => ?_, fun q hs => ?_, fun q op rest hs => ?_⟩
  · rw [step_of_script_nil hs]
    exact invokeStep_eq_fault.mpr ⟨halts none [], rfl⟩
  · rw [step_of_script_step hs]
    exact invokeStep_eq_fault.mpr ⟨halts q [], rfl⟩
  · rw [step_of_script_step hs]
    exact ⟨_, invokeStep_eq_next.mpr (.inr ⟨_, halts q (op :: rest), List.cons_ne_nil op rest, rfl⟩), rfl, rfl, rfl,
      ((FrameBut.refl _ s).beginStep q (op :: rest)).noteResult _⟩

/-- Settles O38: the event is emitted and `PC` advanced, each by its frame rule touching nothing else. -/
theorem unknownOpcodeIsReportedAndSkipped : Obligations.UnknownOpcodeIsReportedAndSkipped := fun s op =>
  ⟨_, rfl, rfl, rfl, ((FrameBut.refl [.events] s).emit (.unknownOpcode op s.pc) (by simp)).advance⟩

/-! ## Events (R129) -/

/-- At most one event was emitted between `s` and `t`, as `Obligations.AtMostOneEventPerInstruction` has it. -/
def EmitsAtMostOne (s t : State) : Prop := t.events = s.events ∨ ∃ e, t.events = s.events ++ [e]

theorem State.emitsAtMostOne_setST (s : State) (b : Byte) : EmitsAtMostOne s (s.setST b) := by
  unfold State.setST
  split
  · exact .inr ⟨_, rfl⟩
  · split
    · exact .inr ⟨_, rfl⟩
    · exact .inl rfl

theorem State.emitsAtMostOne_afterDraw (s : State) (cv : Canvas) : EmitsAtMostOne s (s.afterDraw cv) := by
  unfold State.afterDraw
  split
  · exact .inr ⟨_, rfl⟩
  · exact .inl rfl

/-- Settles O13: five instructions have events in their write set, and each of them emits at most one. -/
theorem atMostOneEventPerInstruction : Obligations.AtMostOneEventPerInstruction := by
  intro i s t h
  have frame := exec_frame h
  cases i with
  | cls | unknown =>
    obtain rfl := Host.Outcome.next.inj h
    exact .inr ⟨_, rfl⟩
  | drw x y n =>
    obtain rfl := Host.Outcome.next.inj h
    exact s.emitsAtMostOne_afterDraw _
  | ldSTVx x =>
    obtain rfl := Host.Outcome.next.inj h
    exact s.emitsAtMostOne_setST _
  | ldVxK x =>
    obtain ⟨_, _, rfl⟩ | ⟨_, rfl⟩ := execLdVxK_eq_next.mp h
    · exact .inl rfl
    · exact .inr ⟨_, rfl⟩
  | _ => exact .inl (frame .events (by simp [writeSet]))

/-! ## Where `PC` goes (R124) -/

theorem toNat_zextAddr (nnn : Addr) : (zextAddr nnn).toNat = nnn.toNat :=
  BitVec.toNat_setWidth_of_le (by decide)

theorem toNat_zextByte (b : Byte) : (zextByte b).toNat = b.toNat :=
  BitVec.toNat_setWidth_of_le (by decide)

/-- The sum of `Bnnn` never wraps: it is at most 0xFFF + 0xFF (41_control_flow.md R138). -/
theorem toNat_addWords_zext (nnn : Addr) (b : Byte) :
    (addWords (zextAddr nnn) (zextByte b)).toNat = nnn.toNat + b.toNat := by
  have hnnn : nnn.toNat < 4096 := nnn.isLt
  have hb : b.toNat < 256 := b.isLt
  rw [addWords, BitVec.toNat_ofNat, toNat_zextAddr, toNat_zextByte, Nat.mod_eq_of_lt (by omega)]

theorem State.skipIf_pc_cases (s : State) (c : Bool) : (s.skipIf c).pc = s.pc + 4 ∨ (s.skipIf c).pc = s.pc + 2 := by
  cases c
  · exact .inr rfl
  · exact .inl rfl

/-- Settles O12, row by row: the jumps, the return, the skips, the key wait, and every other instruction, which advances. -/
theorem pcMovesAsTabulated : Obligations.PcMovesAsTabulated := by
  intro i s t h
  cases i with
  | jp nnn =>
    obtain rfl := Host.Outcome.next.inj h
    exact toNat_zextAddr nnn
  | call nnn =>
    obtain ⟨_, _, rfl⟩ := execCall_eq_next.mp h
    exact toNat_zextAddr nnn
  | jpV0 nnn =>
    obtain rfl := Host.Outcome.next.inj h
    exact toNat_addWords_zext nnn (s.getV 0)
  | ret =>
    obtain ⟨_, _, hpop, rfl⟩ := execRet_eq_next.mp h
    obtain ⟨_, _, _, rfl, rfl⟩ := State.pop?_eq_some.mp hpop
    exact fun _ => rfl
  | seImm | sneImm | seReg | sneReg =>
    obtain rfl := Host.Outcome.next.inj h
    exact ⟨fun hc => by simp [hc], fun hc => by simp [hc]⟩
  | skp x =>
    obtain ⟨pressed, _, rfl⟩ := execSkp_eq_next.mp h
    exact s.skipIf_pc_cases pressed
  | sknp x =>
    obtain ⟨pressed, _, rfl⟩ := execSknp_eq_next.mp h
    exact s.skipIf_pc_cases !pressed
  | ldVxK x =>
    obtain ⟨k, hk, rfl⟩ | ⟨hk, rfl⟩ := execLdVxK_eq_next.mp h
    · exact ⟨fun _ => rfl, fun hnone => absurd (hk.symm.trans hnone) nofun⟩
    · exact ⟨fun hsome => absurd hk hsome, fun _ => rfl⟩
  | drw x y n =>
    obtain rfl := Host.Outcome.next.inj h
    rw [State.afterDraw_eq]
    rfl
  | ldSTVx x =>
    obtain rfl := Host.Outcome.next.inj h
    rw [State.setST_eq]
    rfl
  | ldRegs x =>
    obtain rfl := Host.Outcome.next.inj h
    rw [State.loadRegs_eq]
    rfl
  | _ =>
    obtain rfl := Host.Outcome.next.inj h
    rfl

/-! ## The bound on `PC` (R125) -/

/-- The live entries of the stack are at most `b`: the last part of `State.PcBounded`, where `b` is 0x1000. -/
def State.LiveEntriesLe (s : State) (b : Nat) : Prop :=
  ∀ (k : Nat) (h : k < 16), k < s.sp.val → (s.stack[k]'h).toNat ≤ b

section
variable {s t : State} {w : Word}

/-- A pushed word is one live entry more. -/
theorem State.LiveEntriesLe.push {b : Nat} (hs : s.LiveEntriesLe b) (hw : w.toNat ≤ b) (h : s.push? w = some t) :
    t.LiveEntriesLe b := by
  obtain ⟨hsp, rfl⟩ := State.push?_eq_some.mp h
  intro k hk hlive
  have hle : k < s.sp.val + 1 := hlive
  rw [Vector.getElem_set]
  split
  case isTrue => exact hw
  case isFalse hne => exact hs k hk (by omega)

/-- A popped word was a live entry, and the entries live after the pop were live before. -/
theorem State.LiveEntriesLe.pop {b : Nat} (hs : s.LiveEntriesLe b) (h : s.pop? = some (w, t)) :
    w.toNat ≤ b ∧ t.LiveEntriesLe b := by
  obtain ⟨hpos, hsp, _, rfl, rfl⟩ := State.pop?_eq_some.mp h
  exact ⟨hs _ hsp (by omega), fun k hk hlive => hs k hk (Nat.lt_of_lt_of_le hlive (Nat.sub_le _ _))⟩

/-- An instruction at 0x1000 or below pushes no entry above it. -/
theorem State.LiveEntriesLe.exec {i : Instr} (hs : s.LiveEntriesLe 0x1000) (hpc : s.pc.toNat ≤ 0x1000)
    (h : exec i s = .next t) : t.LiveEntriesLe 0x1000 := by
  have frame := exec_frame h
  cases i with
  | call nnn =>
    obtain ⟨u, hpush, rfl⟩ := execCall_eq_next.mp h
    have pushed : u.LiveEntriesLe 0x1000 := hs.push hpc hpush
    exact pushed
  | ret =>
    obtain ⟨_, u, hpop, rfl⟩ := execRet_eq_next.mp h
    exact (hs.pop hpop).2
  | _ =>
    obtain ⟨hstack, hsp⟩ := frame .stack (by simp [writeSet])
    rwa [State.LiveEntriesLe, hstack, hsp]

/-- A word at 0x1000 or below, moved on by a skip or less, stays below the bound on `PC`. -/
theorem toNat_add_le_pcBound {a k : Word} (ha : a.toNat ≤ 0x1000) (hk : k.toNat ≤ 4) : (a + k).toNat ≤ 0x10FE := by
  rw [BitVec.toNat_add]
  omega

/-- An instruction at 0x1000 or below leaves `PC` at 0x10FE or below, the largest target of `Bnnn` (41_control_flow.md
R138). -/
theorem State.LiveEntriesLe.toNat_pc_exec {i : Instr} (hs : s.LiveEntriesLe 0x1000) (hpc : s.pc.toNat ≤ 0x1000)
    (h : Machine.exec i s = .next t) : t.pc.toNat ≤ 0x10FE := by
  have moved : PcAfter s t.pc i := pcMovesAsTabulated i s t h
  have after_two (ht : t.pc = s.pc + 2) : t.pc.toNat ≤ 0x10FE := ht ▸ toNat_add_le_pcBound hpc (by decide)
  have after_four (ht : t.pc = s.pc + 4) : t.pc.toNat ≤ 0x10FE := ht ▸ toNat_add_le_pcBound hpc (by decide)
  cases i with
  | jp nnn | call nnn =>
    have target : t.pc.toNat = nnn.toNat := moved
    omega
  | jpV0 nnn =>
    have target : t.pc.toNat = nnn.toNat + (s.getV 0).toNat := moved
    omega
  | ret =>
    obtain ⟨entry, u, hpop, rfl⟩ := execRet_eq_next.mp h
    exact toNat_add_le_pcBound (hs.pop hpop).1 (by decide)
  | seImm | seReg => exact (eq_or_ne _ _).elim (after_four ∘ moved.1) (after_two ∘ moved.2)
  | sneImm | sneReg => exact (eq_or_ne _ _).elim (after_two ∘ moved.2) (after_four ∘ moved.1)
  | skp | sknp => exact moved.elim after_four after_two
  | ldVxK x =>
    obtain hnone | hsome := eq_or_ne s.keyDownNow none
    · have waits : t.pc = s.pc := moved.2 hnone
      rw [waits]
      omega
    · exact after_two (moved.1 hsome)
  | _ => exact after_two moved

theorem program_notMem_writeSet (i : Instr) : .program ∉ writeSet i := by
  cases i <;> simp [writeSet]

namespace State.PcBounded

/-- A `Step` that goes on ran its instruction at 0x200 + `PSIZE` or below, which is at most 0x1000, or changed nothing. -/
theorem invokeStep (hs : s.PcBounded) (h : invokeStep s = .next t) : t.PcBounded := by
  obtain hnext | ⟨_, _, _, rfl⟩ := invokeStep_eq_next.mp h
  · obtain ⟨hend, hexec⟩ := performStep_eq_next.mp hnext
    obtain ⟨hsize, _, hlive⟩ := hs
    have hpc : s.pc.toNat ≤ 0x1000 := hend.trans (Nat.add_le_add_left hsize 0x200)
    have same : t.psize = s.psize := exec_frame hexec .program (program_notMem_writeSet _)
    exact ⟨same ▸ hsize, LiveEntriesLe.toNat_pc_exec hlive hpc hexec, LiveEntriesLe.exec hlive hpc hexec⟩
  · exact hs

theorem timerTick (hs : s.PcBounded) : s.timerTick.PcBounded := by
  rw [State.timerTick_eq]
  split
  · exact hs
  · rw [State.setST_eq]
    exact hs

/-- `RunEntry` sends `PC` to 0x200 and empties the stack. -/
theorem runEntry (hs : s.PcBounded) : s.runEntry.PcBounded := by
  obtain ⟨hsize, _, _⟩ := hs
  rw [State.runEntry_eq]
  exact ⟨hsize, (by decide : (0x200 : Word).toNat ≤ 0x10FE), fun k _ hk => absurd hk (Nat.not_lt_zero k)⟩

theorem loadProgram {bytes : List Byte} (hs : s.PcBounded) (h : loadProgram bytes s = .next t) : t.PcBounded := by
  obtain ⟨hsize, _, rfl⟩ := loadProgram_eq_next.mp h
  obtain ⟨_, hpc, hlive⟩ := hs
  exact ⟨hsize, hpc, hlive⟩

/-- `Construct` gives the bounded parts the values they have at reset. -/
theorem construct (s : State) : s.construct.PcBounded := State.pcBounded_reset

end State.PcBounded
end

/-- Settles O4: the operation performed is one of the host's six, and each keeps the bound. -/
theorem stepKeepsThePcBound : Obligations.StepKeepsThePcBound := by
  intro s t hs h
  obtain ⟨q, rest, _, hstep⟩ | ⟨_, _, rfl⟩ | ⟨_, _, rfl⟩ | ⟨_, rest, _, hload⟩ | ⟨_, _, rfl⟩ | ⟨_, _, rfl⟩ :=
    step_cases h
  · exact State.PcBounded.invokeStep (s := s.beginStep q rest) hs hstep
  · exact State.PcBounded.timerTick (s := { s with script := _ }) hs
  · exact State.PcBounded.runEntry (s := { s with script := _ }) hs
  · exact State.PcBounded.loadProgram (s := { s with script := rest }) hs hload
  · exact State.PcBounded.construct _
  · exact hs

end Sys2Proof.Machine
end

/-! # Control flow: the jumps, the call stack and the skips (41_control_flow.md) -/

section
namespace Sys2Proof

/-! ## The words of a family with one instruction (R95) -/

section
variable {w v : Word}

/-- The mask F000 selects by the top nibble. -/
theorem fieldT_of_and_F000 (h : w &&& 0xF000 = v) : fieldT w = fieldT v :=
  extractLsb'_of_and_eq h (by decide)

theorem decode_of_and_1000 (h : w &&& 0xF000 = 0x1000) : decode w = .jp (fieldNNN w) :=
  decode_eq_iff_hasWord.mpr ⟨rfl, formatNNN_of_fieldT (fieldT_of_and_F000 h)⟩

theorem decode_of_and_3000 (h : w &&& 0xF000 = 0x3000) : decode w = .seImm (fieldX w) (fieldKK w) :=
  decode_eq_iff_hasWord.mpr ⟨rfl, formatXKK_of_fields (fieldT_of_and_F000 h) rfl⟩

theorem decode_of_and_4000 (h : w &&& 0xF000 = 0x4000) : decode w = .sneImm (fieldX w) (fieldKK w) :=
  decode_eq_iff_hasWord.mpr ⟨rfl, formatXKK_of_fields (fieldT_of_and_F000 h) rfl⟩

end

end Sys2Proof

namespace Sys2Proof.Machine

/-! ## Jumps (R136, R138) -/

/-- Settles O30: the top nibble selects the jump, and the address is widened without loss. -/
theorem jumpSetsThePc : Obligations.JumpSetsThePc :=
  ⟨fun _ => decode_of_and_1000, fun s nnn => ⟨_, rfl, toNat_zextAddr nnn, (FrameBut.refl [] s).setPC _⟩⟩

/-- Settles O31: the sum of a 12-bit and an 8-bit number does not wrap in 16 bits. -/
theorem offsetJumpAddsV0 : Obligations.OffsetJumpAddsV0 := fun s nnn =>
  ⟨_, rfl, toNat_addWords_zext nnn (s.getV 0), (FrameBut.refl [] s).setPC _⟩

/-! ## The call stack (R135, R137) -/

/-- Settles O32: below the full stack the push succeeds and sets the one entry at `SP`. -/
theorem callPushesItsOwnAddress : Obligations.CallPushesItsOwnAddress := by
  intro s nnn h
  have pushed : s.push? s.pc = some _ := State.push?_eq_some.mpr ⟨h, rfl⟩
  exact ⟨_, execCall_eq_next.mpr ⟨_, pushed, rfl⟩, Vector.getElem_set_self h,
    fun _ hk hne => Vector.getElem_set_ne h hk hne.symm, rfl, toNat_zextAddr nnn,
    ((FrameBut.refl [.stack] s).push pushed (by simp)).setPC _⟩

/-- Settles O33: above the empty stack the pop succeeds, and reads the entry without clearing it. -/
theorem returnGoesPastThePoppedCall : Obligations.ReturnGoesPastThePoppedCall := by
  intro s hpos h
  have popped : s.pop? = some (s.stack[s.sp.val - 1], _) :=
    State.pop?_eq_some.mpr ⟨hpos, h, Nat.lt_succ_of_lt h, rfl, rfl⟩
  exact ⟨_, execRet_eq_next.mpr ⟨_, _, popped, rfl⟩, rfl, rfl, rfl,
    ((FrameBut.refl [.stack] s).pop popped (by simp)).setPC _⟩

/-- Settles O34: the entry the return pops is the one the call pushed, the address of the call. -/
theorem returnUndoesCall : Obligations.ReturnUndoesCall := by
  intro s nnn h
  obtain ⟨t, called, pushed, _, deeper, _⟩ := callPushesItsOwnAddress s nnn h
  refine ⟨t, called, fun u hsp hentry => ?_⟩
  have top : u.sp.val - 1 = s.sp.val := by rw [hsp, deeper, Nat.add_sub_cancel]
  have live : 0 < u.sp.val := by rw [hsp, deeper]; exact Nat.succ_pos _
  obtain ⟨v, returned, hpc, shallower, _⟩ := returnGoesPastThePoppedCall u live (top ▸ h)
  simp only [top, hentry, pushed] at hpc
  exact ⟨v, returned, hpc, Fin.ext (shallower.trans top)⟩

/-! ## Skips (R139 to R142) -/

/-- An instruction that goes on by `skipIf` skips exactly when the condition it tests holds. -/
theorem Skips.of_skipIf {i : Instr} {s : State} {c : Bool} {taken : Prop} (h : exec i s = .next (s.skipIf c))
    (hc : c = true ↔ taken) : Skips i s taken :=
  ⟨_, h, fun ht => if_pos (hc.mpr ht), fun hn => if_neg (mt hc.mp hn), (FrameBut.refl [] s).skipIf c⟩

/-- Settles O36: the top nibble selects each skip, and the comparison decides it. -/
theorem immediateSkips : Obligations.ImmediateSkips :=
  ⟨fun _ => decode_of_and_3000, fun _ => decode_of_and_4000,
    fun _ _ _ => ⟨.of_skipIf rfl beq_iff_eq, .of_skipIf rfl bne_iff_ne⟩⟩

/-- Settles O37: the meaning of each skip does not read the low nibble. -/
theorem registerSkips : Obligations.RegisterSkips := fun _ _ _ _ =>
  ⟨.of_skipIf rfl beq_iff_eq, .of_skipIf rfl bne_iff_ne⟩

end Sys2Proof.Machine
end

/-! # Register load, arithmetic, logic and random (42_load_alu.md) -/

section
namespace Sys2Proof

/-! ## The words of the loads and of the logic operations (R95) -/

section
variable {w v : Word}

theorem decode_of_and_6000 (h : w &&& 0xF000 = 0x6000) : decode w = .ldImm (fieldX w) (fieldKK w) :=
  decode_eq_iff_hasWord.mpr ⟨rfl, formatXKK_of_fields (fieldT_of_and_F000 h) rfl⟩

theorem decode_of_and_7000 (h : w &&& 0xF000 = 0x7000) : decode w = .addImm (fieldX w) (fieldKK w) :=
  decode_eq_iff_hasWord.mpr ⟨rfl, formatXKK_of_fields (fieldT_of_and_F000 h) rfl⟩

/-- The mask F00F selects by the top nibble and the low nibble, and leaves `x` and `y` free. -/
theorem formatXYN_of_and_F00F {t : BitVec 4} {n : Nibble} (h : w &&& 0xF00F = v) (ht : fieldT v = t)
    (hn : fieldN v = n) : formatXYN t (fieldX w) (fieldY w) n = w :=
  formatXYN_of_fields ((extractLsb'_of_and_eq h (by decide)).trans ht)
    ((extractLsb'_of_and_eq h (by decide)).trans hn)

theorem decode_of_and_8000 (h : w &&& 0xF00F = 0x8000) : decode w = .ldReg (fieldX w) (fieldY w) :=
  decode_eq_iff_hasWord.mpr ⟨rfl, formatXYN_of_and_F00F h rfl rfl⟩

theorem decode_of_and_8001 (h : w &&& 0xF00F = 0x8001) : decode w = .orReg (fieldX w) (fieldY w) :=
  decode_eq_iff_hasWord.mpr ⟨rfl, formatXYN_of_and_F00F h rfl rfl⟩

theorem decode_of_and_8002 (h : w &&& 0xF00F = 0x8002) : decode w = .andReg (fieldX w) (fieldY w) :=
  decode_eq_iff_hasWord.mpr ⟨rfl, formatXYN_of_and_F00F h rfl rfl⟩

theorem decode_of_and_8003 (h : w &&& 0xF00F = 0x8003) : decode w = .xorReg (fieldX w) (fieldY w) :=
  decode_eq_iff_hasWord.mpr ⟨rfl, formatXYN_of_and_F00F h rfl rfl⟩

end

end Sys2Proof

namespace Sys2Proof.Machine

/-! ## Arithmetic narrowed to a byte, and the flags, as numbers (R163) -/

section
variable (a b : Byte)

theorem toNat_addBytes : (addBytes a b).toNat = (a.toNat + b.toNat) % 256 := BitVec.toNat_ofNat _ 8

theorem toNat_subBytes : (subBytes a b).toNat = (a.toNat + 256 - b.toNat) % 256 := BitVec.toNat_ofNat _ 8

theorem toNat_shiftLeftByte : (shiftLeftByte a).toNat = a.toNat * 2 % 256 := BitVec.toNat_ofNat _ 8

/-- Half a byte is a byte: the narrowing loses nothing. -/
theorem toNat_shiftRightByte : (shiftRightByte a).toNat = a.toNat / 2 := by
  have ha : a.toNat < 2 ^ 8 := a.isLt
  rw [shiftRightByte, BitVec.toNat_ofNat, Nat.mod_eq_of_lt (by omega)]

theorem toNat_flagByte (c : Bool) : (flagByte c).toNat = c.toNat := by
  cases c <;> rfl

theorem toNat_droppedLowFlag : (droppedLowFlag a).toNat = a.toNat % 2 := by
  rw [droppedLowFlag, toNat_flagByte, BitVec.getLsbD, Nat.toNat_testBit, pow_zero, Nat.div_one]

/-- A byte is below 256, so nothing lies above bit 7. -/
theorem toNat_droppedHighFlag : (droppedHighFlag a).toNat = a.toNat / 128 := by
  have ha : a.toNat < 256 := a.isLt
  rw [droppedHighFlag, toNat_flagByte, BitVec.getLsbD, Nat.toNat_testBit]
  omega

end

theorem flagByte_decide_of_pos {p : Prop} [Decidable p] (h : p) : flagByte (decide p) = 1 :=
  if_pos (decide_eq_true h)

theorem flagByte_decide_of_neg {p : Prop} [Decidable p] (h : ¬p) : flagByte (decide p) = 0 :=
  if_neg (mt of_decide_eq_true h)

/-! ## The two shapes of this family: one register written, or one register and then the flag (R150) -/

section
variable {i : Instr} {s : State} {x : Reg}

/-- An instruction that goes on by writing one register and advancing leaves the value there and everything else alone. -/
theorem exists_next_of_setV {b : Byte} (h : exec i s = .next (s.setV x b).advance) :
    ∃ t, exec i s = .next t ∧ t.getV x = b ∧ RegsBut [x] s t ∧ t.pc = s.pc + 2 ∧ FrameBut [.regs] s t := by
  refine ⟨_, h, State.getV_setV_same s x b, fun r hr => ?_, rfl, ((FrameBut.refl _ s).setV x b (by simp)).advance⟩
  exact State.getV_setV_ne s b (List.ne_of_not_mem_cons hr)

/-- An instruction that goes on by writing a result and then the flag: `VF` holds the flag even when `x = 15` (D6), and for
every other `x` the result is in `Vx`. -/
theorem exists_next_of_setVF {res flag : Byte} (h : exec i s = .next (s.setVF x res flag).advance) :
    ∃ t, exec i s = .next t ∧ (x ≠ 0xF → t.getV x = res) ∧ t.getV 0xF = flag ∧
      RegsBut [x, 0xF] s t ∧ t.pc = s.pc + 2 ∧ FrameBut [.regs] s t := by
  refine ⟨_, h, fun hx => ?_, ?_, fun r hr => ?_, rfl,
    ((FrameBut.refl _ s).setVF x res flag (by simp)).advance⟩
  · have hxF : x ≠ vF := hx
    rw [State.advance_getV, State.getV_setVF, if_neg hxF, if_pos rfl]
  · exact State.getV_setV_same (s.setV x res) vF flag
  · obtain ⟨hx, hF⟩ : r ≠ x ∧ r ≠ vF := by simpa [vF] using hr
    rw [State.advance_getV, State.getV_setVF, if_neg hF, if_neg hx]

/-- Either subtraction, minuend `a` and subtrahend `b`: the difference mod 256, and the flag set exactly when nothing is
borrowed, equality included (R158, R160). -/
theorem exists_next_of_subBytes {a b : Byte}
    (h : exec i s = .next (s.setVF x (subBytes a b) (notBorrowFlag a b)).advance) :
    ∃ t, exec i s = .next t ∧ (x ≠ 0xF → (t.getV x).toNat = (a.toNat + 256 - b.toNat) % 256) ∧
      (b.toNat ≤ a.toNat → t.getV 0xF = 1) ∧ (a.toNat < b.toNat → t.getV 0xF = 0) ∧
      RegsBut [x, 0xF] s t ∧ t.pc = s.pc + 2 ∧ FrameBut [.regs] s t := by
  obtain ⟨t, hnext, hres, hflag, rest⟩ := exists_next_of_setVF h
  refine ⟨t, hnext, fun hx => ?_, fun hle => ?_, fun hlt => ?_, rest⟩
  · rw [hres hx, toNat_subBytes]
  · exact hflag.trans (flagByte_decide_of_pos hle)
  · exact hflag.trans (flagByte_decide_of_neg (Nat.not_le.mpr hlt))

end

/-! ## Loads, the immediate addition and the logic operations (R151 to R156) -/

/-- Settles O23: both loads write one register and nothing else. -/
theorem loadsWriteTheDestination : Obligations.LoadsWriteTheDestination :=
  ⟨fun _ => decode_of_and_6000, fun _ => decode_of_and_8000,
    fun _ _ _ _ => ⟨exists_next_of_setV rfl, exists_next_of_setV rfl⟩⟩

/-- Settles O24: the one register written holds the narrowed sum, so `VF` changes only as the destination. -/
theorem addImmediateWrapsWithoutFlag : Obligations.AddImmediateWrapsWithoutFlag := by
  refine ⟨fun _ => decode_of_and_7000, fun s x kk => ?_⟩
  obtain ⟨t, hnext, hx, rest⟩ := exists_next_of_setV (i := .addImm x kk) (s := s) rfl
  exact ⟨t, hnext, by rw [hx, toNat_addBytes], rest⟩

/-- Settles O25: each word writes one register, bit by bit the operation on the two operands. -/
theorem logicIsBitwiseAndKeepsTheFlag : Obligations.LogicIsBitwiseAndKeepsTheFlag := by
  refine ⟨fun _ => decode_of_and_8001, fun _ => decode_of_and_8002, fun _ => decode_of_and_8003,
    fun s x y => ⟨?_, ?_, ?_⟩⟩
  · obtain ⟨t, hnext, hx, rest⟩ := exists_next_of_setV (i := .orReg x y) (s := s) rfl
    exact ⟨t, hnext, fun k => by rw [hx, BitVec.getLsbD_or], rest⟩
  · obtain ⟨t, hnext, hx, rest⟩ := exists_next_of_setV (i := .andReg x y) (s := s) rfl
    exact ⟨t, hnext, fun k => by rw [hx, BitVec.getLsbD_and], rest⟩
  · obtain ⟨t, hnext, hx, rest⟩ := exists_next_of_setV (i := .xorReg x y) (s := s) rfl
    exact ⟨t, hnext, fun k => by rw [hx, BitVec.getLsbD_xor], rest⟩

/-! ## The operations that set the flag (R157 to R161) -/

/-- Settles O26: the flag, written last, is the carry of the exact sum. -/
theorem addSetsSumAndCarry : Obligations.AddSetsSumAndCarry := by
  intro s x y
  obtain ⟨t, hnext, hres, hflag, rest⟩ := exists_next_of_setVF (i := .addReg x y) (s := s) rfl
  refine ⟨t, hnext, fun hx => ?_, fun hcarry => ?_, fun hfits => ?_, rest⟩
  · rw [hres hx, toNat_addBytes]
  · exact hflag.trans (flagByte_decide_of_pos hcarry)
  · exact hflag.trans (flagByte_decide_of_neg (Nat.not_lt.mpr hfits))

/-- Settles O27: the two subtractions are one, with the operands exchanged. -/
theorem subtractSetsDifferenceAndNotBorrow : Obligations.SubtractSetsDifferenceAndNotBorrow := fun _ _ _ =>
  ⟨exists_next_of_subBytes rfl, exists_next_of_subBytes rfl⟩

/-- Settles O28: no shift reads `Vy`, and the dropped bit is the remainder by 2 or the quotient by 128. -/
theorem shiftsDropOneBitIntoTheFlag : Obligations.ShiftsDropOneBitIntoTheFlag := by
  intro s x y
  constructor
  · obtain ⟨t, hnext, hres, hflag, rest⟩ := exists_next_of_setVF (i := .shr x y) (s := s) rfl
    exact ⟨t, hnext, fun hx => by rw [hres hx, toNat_shiftRightByte], by rw [hflag, toNat_droppedLowFlag], rest⟩
  · obtain ⟨t, hnext, hres, hflag, rest⟩ := exists_next_of_setVF (i := .shl x y) (s := s) rfl
    exact ⟨t, hnext, fun hx => by rw [hres hx, toNat_shiftLeftByte], by rw [hflag, toNat_droppedHighFlag], rest⟩

/-! ## The random byte (R162) -/

/-- Where the host's schedule gives the inputs of the step, `RND` is the one it gives (D13). -/
theorem State.rndNow_of_inputs {s : State} {q : StepInputs} (h : s.inputs = some q) : s.rndNow = q.rnd := by
  rw [State.rndNow, h]

/-- Settles O29: the AND clears every bit that `kk` clears, whatever the random byte is. -/
theorem randomByteIsMasked : Obligations.RandomByteIsMasked := by
  intro s x kk
  obtain ⟨t, hnext, hx, rest⟩ := exists_next_of_setV (i := .rnd x kk) (s := s) rfl
  refine ⟨t, hnext, hx, fun _ => State.rndNow_of_inputs, fun k hk => ?_, rest⟩
  rw [hx, BitVec.getLsbD_and, hk, Bool.and_false]

end Sys2Proof.Machine
end

/-! # Index register and memory (43_index_memory.md) -/

section
namespace Sys2Proof

/-! ## The words of the index load and of the decimal store (R95) -/

section
variable {w : Word}

theorem decode_of_and_A000 (h : w &&& 0xF000 = 0xA000) : decode w = .ldI (fieldNNN w) :=
  decode_eq_iff_hasWord.mpr ⟨rfl, formatNNN_of_fieldT (fieldT_of_and_F000 h)⟩

/-- The mask F0FF selects by the top nibble and the low byte, and leaves `x` free. -/
theorem formatXKK_of_and_F0FF {v : Word} {t : BitVec 4} {kk : Byte} (h : w &&& 0xF0FF = v) (ht : fieldT v = t)
    (hkk : fieldKK v = kk) : formatXKK t (fieldX w) kk = w :=
  formatXKK_of_fields ((extractLsb'_of_and_eq h (by decide)).trans ht)
    ((extractLsb'_of_and_eq h (by decide)).trans hkk)

theorem decode_of_and_F033 (h : w &&& 0xF0FF = 0xF033) : decode w = .ldB (fieldX w) :=
  decode_eq_iff_hasWord.mpr ⟨rfl, formatXKK_of_and_F0FF h rfl rfl⟩

end

end Sys2Proof

namespace Sys2Proof.Machine

/-! ## The operands as numbers (R171 to R173) -/

theorem toNat_addWords (a b : Word) : (addWords a b).toNat = (a.toNat + b.toNat) % 65536 :=
  BitVec.toNat_ofNat _ 16

/-- Five times a byte is at most 1275: the narrowing loses nothing. -/
theorem toNat_glyphAddress (b : Byte) : (glyphAddress b).toNat = b.toNat * 5 := by
  have hb : b.toNat < 256 := b.isLt
  rw [glyphAddress, BitVec.toNat_ofNat, Nat.mod_eq_of_lt (by omega)]

/-- A byte has three decimal digits, and each fits in a byte. -/
theorem toNat_bcdDigits (b : Byte) :
    (bcdDigits b).map BitVec.toNat = [b.toNat / 100, b.toNat / 10 % 10, b.toNat % 10] := by
  have hb : b.toNat < 256 := b.isLt
  simp only [bcdDigits, List.map_cons, List.map_nil, BitVec.toNat_ofNat, List.cons.injEq, and_true]
  omega

/-! ## What the stores and the load leave (R173 to R175) -/

/-- The state after `Fx33` but for `PC`: digit `k` lies at `I + k`. -/
theorem State.toNat_readByte_storeDigits (s : State) (b : Byte) {k : Nat} (hk : k < 3) :
    ((s.writeBytes (s.indexAddress 0) (bcdDigits b)).readByte (s.i.toNat + k)).toNat =
      [b.toNat / 100, b.toNat / 10 % 10, b.toNat % 10][k] := by
  have stored := s.readByte_writeBytes_mem (s.indexAddress 0) (bcdDigits b) k hk (by simp [bcdDigits])
  calc ((s.writeBytes (s.indexAddress 0) (bcdDigits b)).readByte (s.i.toNat + k)).toNat
    _ = ((bcdDigits b)[k]'hk).toNat := congrArg BitVec.toNat stored
    _ = ((bcdDigits b).map BitVec.toNat)[k]'hk := (List.getElem_map _).symm
    _ = [b.toNat / 100, b.toNat / 10 % 10, b.toNat % 10][k] := by simp only [toNat_bcdDigits]

/-- The state after `Fx65` but for `PC`: register `k` holds the byte at `I + k`. -/
theorem State.getV_loadRegs_bytesAtI (s : State) {x k : Reg} (hk : k.toNat ≤ x.toNat) :
    (s.loadRegs 0 (s.bytesAtI (x.toNat + 1))).getV k = s.readByte (s.i.toNat + k.toNat) := by
  have hlen : (s.bytesAtI (x.toNat + 1)).length = x.toNat + 1 := s.length_bytesAtI _
  have hx : x.toNat < 16 := x.isLt
  rw [State.getV_loadRegs _ _ _ (by omega), dif_pos (by omega), State.getElem_bytesAtI, Nat.sub_zero]

theorem State.loadRegs_pc (s : State) (k : Nat) (bs : List Byte) : (s.loadRegs k bs).pc = s.pc := by
  rw [State.loadRegs_eq]

/-! ## The index register (R170 to R172) -/

/-- Settles O39: the top nibble selects the load, and the address is widened without loss. -/
theorem loadIndexSetsI : Obligations.LoadIndexSetsI :=
  ⟨fun _ => decode_of_and_A000, fun _ nnn => ⟨_, rfl, toNat_zextAddr nnn, rfl, exec_frame (i := .ldI nnn) rfl⟩⟩

/-- Settles O40: only the sum can leave 16 bits, and neither instruction writes a register. -/
theorem indexArithmetic : Obligations.IndexArithmetic := by
  refine fun s x => ⟨⟨_, rfl, ?_, rfl, exec_frame (i := .addI x) rfl⟩,
    ⟨_, rfl, toNat_glyphAddress (s.getV x), rfl, exec_frame (i := .ldF x) rfl⟩⟩
  rw [State.advance_i, State.setI_i, toNat_addWords, toNat_zextByte]

/-! ## Memory at the index (R173 to R175) -/

/-- Settles O41: the mask leaves `x` free, and the three digits go to the three bytes from `I` up. -/
theorem decimalDigitsAreStored : Obligations.DecimalDigitsAreStored := by
  refine ⟨fun _ => decode_of_and_F033, fun s x => ?_⟩
  have digit {k : Nat} (hk : k < 3) := s.toNat_readByte_storeDigits (s.getV x) hk
  have other {a : Nat} := exec_readByte (i := .ldB x) (s := s) (a := a) rfl
  exact ⟨_, rfl, digit (k := 0) (by decide), digit (k := 1) (by decide), digit (k := 2) (by decide),
    fun _ ha => other fun ⟨k, hk, hak⟩ => ha k hk hak, rfl, exec_frame (i := .ldB x) rfl⟩

/-- Settles O42: the stored list is `V0` to `Vx`, and a register's number is its place in it. -/
theorem registersAreStored : Obligations.RegistersAreStored := by
  intro s x
  refine ⟨_, rfl, fun k hk => ?_, fun _ ha => ?_, rfl, exec_frame (i := .stRegs x) rfl⟩
  · rw [State.advance_readByte, s.readByte_storeRegs hk rfl, BitVec.ofNat_toNat, BitVec.setWidth_eq]
  · exact exec_readByte (i := .stRegs x) rfl fun ⟨k, hk, hak⟩ => ha k hk hak

/-- Settles O43: the loaded list is the bytes from `I` up, and it ends at `Vx`. -/
theorem registersAreLoaded : Obligations.RegistersAreLoaded := by
  refine fun s x => ⟨_, rfl, fun _ => s.getV_loadRegs_bytesAtI, fun _ hk => ?_, ?_,
    exec_frame (i := .ldRegs x) rfl⟩
  · exact exec_getV (i := .ldRegs x) rfl (Nat.not_le.mpr hk)
  · rw [State.advance_pc, State.loadRegs_pc]

end Sys2Proof.Machine
end

/-! # Display (44_display.md) -/

section
namespace Sys2Proof.Machine

/-! ## Where the bits of a sprite fall (R186) -/

section
variable {x y r c : Nat} {b : Byte} {rows : List Byte}

@[simp] theorem rowBitAt_zero : rowBitAt x 0#8 c = false := by
  rw [rowBitAt, BitVec.getLsbD_zero, Bool.and_false]

theorem rowBitAt_eq_true_iff :
    rowBitAt x b c = true ↔ ∃ d < 8, c % 64 = (x + d) % 64 ∧ b.getLsbD (7 - d) = true := by
  have column {d : Nat} (hd : d < 8) : c % 64 = (x + d) % 64 ↔ (c + 64 - x % 64) % 64 = d := by omega
  simp only [rowBitAt, Bool.and_eq_true, decide_eq_true_eq]
  constructor
  · rintro ⟨hd, hbit⟩
    exact ⟨_, hd, (column hd).mpr rfl, hbit⟩
  · rintro ⟨d, hd, hc, hbit⟩
    rw [(column hd).mp hc]
    exact ⟨hd, hbit⟩

/-- The bit of a sprite that falls on the pixel `(r, c)` when the sprite is drawn from row `y` and column `x`: a bit of the
row that lies on row `r`, counted around the grid, and 0 below the last row. -/
def spriteBitAt (x y : Nat) (rows : List Byte) (r c : Nat) : Bool :=
  rowBitAt x (rows.getD ((r + 32 - y % 32) % 32) 0#8) c

@[simp] theorem spriteBitAt_nil : spriteBitAt x y [] r c = false := by
  simp [spriteBitAt]

theorem spriteBitAt_cons_top (hr : r % 32 = y % 32) : spriteBitAt x y (b :: rows) r c = rowBitAt x b c := by
  have offset : (r + 32 - y % 32) % 32 = 0 := by omega
  rw [spriteBitAt, offset, List.getD_cons_zero]

theorem spriteBitAt_cons_below (hr : r % 32 ≠ y % 32) :
    spriteBitAt x y (b :: rows) r c = spriteBitAt x (y + 1) rows r c := by
  have offset : (r + 32 - y % 32) % 32 = (r + 32 - (y + 1) % 32) % 32 + 1 := by omega
  rw [spriteBitAt, offset, List.getD_cons_succ, spriteBitAt]

/-- A sprite of fewer than 32 rows does not come around to the row above its first. -/
theorem spriteBitAt_above (hlen : rows.length < 32) (hr : r % 32 = y % 32) :
    spriteBitAt x (y + 1) rows r c = false := by
  have offset : (r + 32 - (y + 1) % 32) % 32 = 31 := by omega
  rw [spriteBitAt, offset, List.getD_eq_default _ _ (Nat.le_of_lt_succ hlen), rowBitAt_zero]

/-! ## What a sprite draw does to every pixel and to the collision flag (R186) -/

/-- A draw toggles the pixels under the sprite's 1 bits and no other. -/
theorem drawRows_pixel (hlen : rows.length ≤ 32) (cv : Canvas) :
    (drawRows x y rows cv).1.pixel r c = (cv.1.pixel r c ^^ spriteBitAt x y rows r c) := by
  induction rows generalizing y cv with
  | nil => simp [drawRows]
  | cons b rows ih =>
    rw [drawRows, ih (Nat.le_of_succ_le hlen), drawRow_pixel]
    by_cases hr : r % 32 = y % 32
    · simp [spriteBitAt_cons_top hr, spriteBitAt_above hlen hr, hr]
    · simp [spriteBitAt_cons_below hr, hr]

/-- A draw collides exactly when a 1 bit of the sprite falls on a pixel that was on: no row of it falls on another, so every
row meets the pixels as they were before the draw. -/
theorem drawRows_collision (hlen : rows.length ≤ 32) (cv : Canvas) : (drawRows x y rows cv).2 = true ↔
    cv.2 = true ∨ ∃ r c, spriteBitAt x y rows r c = true ∧ cv.1.pixel r c = true := by
  induction rows generalizing y cv with
  | nil => simp [drawRows]
  | cons b rows ih =>
    rw [drawRows, ih (Nat.le_of_succ_le hlen), drawRow_collision, or_assoc]
    refine or_congr_right ⟨?_, ?_⟩
    · rintro (⟨d, hd, hbit, hon⟩ | ⟨r, c, hbit, hon⟩)
      · have top : spriteBitAt x y (b :: rows) y (x + d) = true :=
          (spriteBitAt_cons_top rfl).trans (rowBitAt_eq_true_iff.mpr ⟨d, hd, rfl, hbit⟩)
        exact ⟨y, x + d, top, hon⟩
      · have hr : r % 32 ≠ y % 32 := fun hr => by simp [spriteBitAt_above hlen hr] at hbit
        refine ⟨r, c, (spriteBitAt_cons_below hr).trans hbit, ?_⟩
        simpa [drawRow_pixel, hr] using hon
    · rintro ⟨r, c, hbit, hon⟩
      by_cases hr : r % 32 = y % 32
      · rw [spriteBitAt_cons_top hr] at hbit
        obtain ⟨d, hd, hc, hbit⟩ := rowBitAt_eq_true_iff.mp hbit
        refine .inl ⟨d, hd, hbit, ?_⟩
        simpa [Framebuffer.pixel, hr, hc] using hon
      · rw [spriteBitAt_cons_below hr] at hbit
        refine .inr ⟨r, c, hbit, ?_⟩
        simpa [drawRow_pixel, hr] using hon

end

/-! ## The sprite of `Dxyn` (R188, R189) -/

section
variable {s : State} {x y : Reg} {n : Nibble} {r c : Nat}

/-- The grid and the collision flag that `Dxyn` gives. -/
def State.drawn (s : State) (x y : Reg) (n : Nibble) : Canvas :=
  drawSprite s.fb (s.getV x) (s.getV y) (s.bytesAtI n.toNat)

theorem exec_drw : exec (.drw x y n) s = .next (s.afterDraw (s.drawn x y n)).advance := rfl

/-- `SpriteCovers` is the sprite bit of the bytes at `I`, drawn from `Vx` and `Vy`. -/
theorem spriteCovers_iff : SpriteCovers s x y n r c ↔
    spriteBitAt (s.getV x).toNat (s.getV y).toNat (s.bytesAtI n.toNat) r c = true := by
  have hn : n.toNat < 16 := n.isLt
  have row {k : Nat} (hk : k < n.toNat) : (s.bytesAtI n.toNat).getD k 0#8 = s.readByte (s.i.toNat + k) := by
    rw [List.getD_eq_getElem _ _ (by simpa using hk), State.getElem_bytesAtI]
  have offset {k : Nat} (hk : k < 32) :
      r % 32 = ((s.getV y).toNat + k) % 32 ↔ (r + 32 - (s.getV y).toNat % 32) % 32 = k := by omega
  rw [spriteBitAt]
  constructor
  · rintro ⟨k, hk, d, hd, hr, hc, hbit⟩
    rw [(offset (by omega)).mp hr, row hk]
    exact rowBitAt_eq_true_iff.mpr ⟨d, hd, hc, hbit⟩
  · intro h
    by_cases hk : (r + 32 - (s.getV y).toNat % 32) % 32 < n.toNat
    · rw [row hk] at h
      obtain ⟨d, hd, hc, hbit⟩ := rowBitAt_eq_true_iff.mp h
      exact ⟨_, hk, d, hd, (offset (by omega)).mpr rfl, hc, hbit⟩
    · rw [List.getD_eq_default _ _ (by simpa using hk), rowBitAt_zero] at h
      cases h

/-- A collision at any coordinates is one on the grid. -/
theorem spriteCollides_iff :
    SpriteCollides s x y n ↔ ∃ r c, SpriteCovers s x y n r c ∧ s.fb.pixel r c = true := by
  constructor
  · rintro ⟨r, -, c, -, h⟩
    exact ⟨r, c, h⟩
  · rintro ⟨r, c, h⟩
    refine ⟨r % 32, Nat.mod_lt _ (by decide), c % 64, Nat.mod_lt _ (by decide), ?_⟩
    simpa [SpriteCovers, Framebuffer.pixel] using h

/-- A sprite has at most 15 rows, so it does not meet itself around the grid. -/
theorem State.length_bytesAtI_nibble_le (s : State) (n : Nibble) : (s.bytesAtI n.toNat).length ≤ 32 := by
  have hn : n.toNat < 16 := n.isLt
  rw [State.length_bytesAtI]
  omega

theorem State.drawn_pixel_of_covers (h : SpriteCovers s x y n r c) :
    (s.drawn x y n).1.pixel r c = !s.fb.pixel r c := by
  rw [State.drawn, drawSprite, drawRows_pixel (s.length_bytesAtI_nibble_le n), spriteCovers_iff.mp h, Bool.xor_true]

theorem State.drawn_pixel_of_not_covers (h : ¬SpriteCovers s x y n r c) :
    (s.drawn x y n).1.pixel r c = s.fb.pixel r c := by
  rw [State.drawn, drawSprite, drawRows_pixel (s.length_bytesAtI_nibble_le n),
    Bool.eq_false_of_not_eq_true (mt spriteCovers_iff.mpr h), Bool.xor_false]

theorem State.drawn_collision : (s.drawn x y n).2 = true ↔ SpriteCollides s x y n := by
  simp [State.drawn, drawSprite, drawRows_collision (s.length_bytesAtI_nibble_le n), spriteCollides_iff,
    spriteCovers_iff]

theorem spriteCovers_congr {t : State} (hv : ∀ q, t.getV q = s.getV q) (hi : t.i = s.i)
    (hm : ∀ a, t.readByte a = s.readByte a) : SpriteCovers t x y n r c ↔ SpriteCovers s x y n r c := by
  simp only [SpriteCovers, hv, hi, hm]

/-- After a draw the sprite lies where it lay, once the registers are put back: a draw writes neither `I` nor memory. -/
theorem spriteCovers_putBack {t : State} (h : FrameBut [.regs, .screen, .events] s t) :
    SpriteCovers { t with v := s.v } x y n r c ↔ SpriteCovers s x y n r c :=
  spriteCovers_congr (fun _ => rfl) (h .index (by simp)) (h .memory (by simp))

end

/-! ## Clear and draw (R187, R189, R190) -/

/-- Settles O44: the clear goes on in every state, and what it presents is the grid it left. -/
theorem clearTurnsEveryPixelOffAndPresents : Obligations.ClearTurnsEveryPixelOffAndPresents :=
  ⟨rfl, fun _ => ⟨_, rfl, Framebuffer.pixel_clear, rfl, rfl, exec_frame (i := .cls) rfl⟩⟩

/-- Settles O45: the pixels and the collision are those of the sprite drawn, and the flag and the event follow the
collision. -/
theorem drawTogglesTheSpriteAndReportsCollision : Obligations.DrawTogglesTheSpriteAndReportsCollision := by
  intro s x y n
  have flag : (s.afterDraw (s.drawn x y n)).advance.getV 0xF = collisionFlag (s.drawn x y n).2 :=
    (s.getV_afterDraw _ vF).trans (if_pos rfl)
  refine ⟨_, exec_drw, fun r _ c _ h => ?_, fun r _ c _ h => ?_, fun h => ?_, fun h => ?_, fun q hq => ?_, ?_,
    ((FrameBut.refl _ s).afterDraw _).advance⟩
  · simpa [State.afterDraw_eq] using State.drawn_pixel_of_covers h
  · simpa [State.afterDraw_eq] using State.drawn_pixel_of_not_covers h
  · have collided := State.drawn_collision.mpr h
    exact ⟨by rw [flag, collided]; rfl, by simp [State.afterDraw_eq, collided]⟩
  · have missed := Bool.eq_false_of_not_eq_true (mt State.drawn_collision.mp h)
    exact ⟨by rw [flag, missed]; rfl, by simp [State.afterDraw_eq, missed]⟩
  · exact exec_getV exec_drw (List.ne_of_not_mem_cons hq)
  · simp [State.afterDraw_eq]

/-- Settles O46: both draws cover the same pixels, so each covered pixel is toggled twice, and the second draw meets a covered
pixel on exactly where the first met it off. -/
theorem drawTwiceRestoresTheGrid : Obligations.DrawTwiceRestoresTheGrid := by
  intro s x y n
  obtain ⟨t, first, toggled, kept, -, -, -, -, frame⟩ := drawTogglesTheSpriteAndReportsCollision s x y n
  obtain ⟨u, second, toggledBack, keptAgain, collided, missed, -⟩ :=
    drawTogglesTheSpriteAndReportsCollision { t with v := s.v } x y n
  simp only [SpriteCollides, spriteCovers_putBack frame] at toggledBack keptAgain collided missed
  refine ⟨t, u, first, second, Framebuffer.ext_pixel fun r hr c hc => ?_, ?_⟩
  · by_cases h : SpriteCovers s x y n r c
    · rw [toggledBack r hr c hc h, toggled r hr c hc h, Bool.not_not]
    · rw [keptAgain r hr c hc h, kept r hr c hc h]
  · have onAgain : (∃ r < 32, ∃ c < 64, SpriteCovers s x y n r c ∧ t.fb.pixel r c = true) ↔
        ∃ r < 32, ∃ c < 64, SpriteCovers s x y n r c ∧ s.fb.pixel r c = false := by
      refine exists_congr fun r => and_congr_right fun hr => exists_congr fun c => and_congr_right fun hc =>
        and_congr_right fun h => ?_
      rw [toggled r hr c hc h, Bool.not_eq_true']
    rw [← onAgain]
    refine ⟨fun hflag => ?_, fun h => (collided h).1⟩
    by_contra h
    rw [(missed h).1] at hflag
    exact absurd hflag (by decide)

end Sys2Proof.Machine
end

/-! # Keypad and timers (45_keypad_timers.md) -/

section
namespace Sys2Proof

/-! ## The words of the delay timer (R95) -/

section
variable {w : Word}

theorem decode_of_and_F007 (h : w &&& 0xF0FF = 0xF007) : decode w = .ldVxDT (fieldX w) :=
  decode_eq_iff_hasWord.mpr ⟨rfl, formatXKK_of_and_F0FF h rfl rfl⟩

theorem decode_of_and_F015 (h : w &&& 0xF0FF = 0xF015) : decode w = .ldDTVx (fieldX w) :=
  decode_eq_iff_hasWord.mpr ⟨rfl, formatXKK_of_and_F0FF h rfl rfl⟩

end

end Sys2Proof

namespace Sys2Proof.Machine

/-! ## The key levels and the key-down event of the step (R200, R203) -/

section
variable {s : State} {q : StepInputs}

theorem State.keysNow_of_inputs (h : s.inputs = some q) : s.keysNow = q.keys := by
  rw [State.keysNow, h]

theorem State.keyDownNow_of_inputs (h : s.inputs = some q) : s.keyDownNow = q.keyDown := by
  rw [State.keyDownNow, h]

end

/-! ## The key test and the two skips it decides (R201, R202) -/

section
variable {s : State} {x : Reg} {k : Byte}

/-- The low nibble of a byte names the key of that index mod 16. -/
theorem State.keyLevel_setWidth (s : State) (k : Byte) (h : k.toNat % 16 < 16) :
    s.keyLevel (k.setWidth 4) = s.keysNow[k.toNat % 16] := rfl

theorem State.keyTest_of_lt (h : k.toNat < 16) : s.keyTest k = .ok s.keysNow[k.toNat] := by
  have inRange : k.toNat % 16 = k.toNat := Nat.mod_eq_of_lt h
  rw [State.keyTest_inRange (Nat.le_of_lt_succ h), s.keyLevel_setWidth k (inRange.symm ▸ h)]
  simp only [inRange]

theorem State.keyTest_of_refuse (h : 15 < k.toNat) (policy : Config.keyOor = .refuse) :
    s.keyTest k = .error (.keyIndexOutOfRange k) := by
  rw [State.keyTest, if_neg (Nat.not_le.mpr h), policy]

theorem State.keyTest_of_mask (h : 15 < k.toNat) (policy : Config.keyOor = .mask) (hk : k.toNat % 16 < 16) :
    s.keyTest k = .ok s.keysNow[k.toNat % 16] := by
  rw [State.keyTest, if_neg (Nat.not_le.mpr h), policy, s.keyLevel_setWidth k hk]

theorem State.keyTest_of_notPressed (h : 15 < k.toNat) (policy : Config.keyOor = .notPressed) :
    s.keyTest k = .ok false := by
  rw [State.keyTest, if_neg (Nat.not_le.mpr h), policy]

theorem execSkp_of_keyTest_error {r : Refusal} (h : s.keyTest (s.getV x) = .error r) : execSkp x s = .refused r := by
  rw [execSkp, h]

theorem execSknp_of_keyTest_error {r : Refusal} (h : s.keyTest (s.getV x) = .error r) :
    execSknp x s = .refused r := by
  rw [execSknp, h]

/-- `Ex9E` skips exactly when its key test finds the key pressed. -/
theorem skips_skp {pressed : Bool} {taken : Prop} (h : s.keyTest (s.getV x) = .ok pressed)
    (ht : pressed = true ↔ taken) : Skips (.skp x) s taken :=
  .of_skipIf (execSkp_eq_next.mpr ⟨pressed, h, rfl⟩) ht

/-- `ExA1` skips exactly when its key test finds the key not pressed. -/
theorem skips_sknp {pressed : Bool} {taken : Prop} (h : s.keyTest (s.getV x) = .ok pressed)
    (ht : pressed = false ↔ taken) : Skips (.sknp x) s taken :=
  .of_skipIf (execSknp_eq_next.mpr ⟨pressed, h, rfl⟩) ((iff_of_eq (Bool.not_eq_true' pressed)).trans ht)

end

/-- Settles O47: in range the key test is the level of the key. -/
theorem keySkipsTestTheLevel : Obligations.KeySkipsTestTheLevel := fun _ _ h =>
  have tested := State.keyTest_of_lt h
  ⟨skips_skp tested Iff.rfl, skips_sknp tested Iff.rfl, fun _ => State.keysNow_of_inputs⟩

/-- Settles O48: out of range the key test is what each value of the policy makes it. -/
theorem keyIndexOutOfRangeFollowsThePolicy : Obligations.KeyIndexOutOfRangeFollowsThePolicy := by
  intro s x h
  split
  next policy =>
    have tested := State.keyTest_of_refuse (s := s) h policy
    exact ⟨execSkp_of_keyTest_error tested, execSknp_of_keyTest_error tested⟩
  next policy =>
    intro hk
    have tested := State.keyTest_of_mask (s := s) h policy hk
    exact ⟨skips_skp tested Iff.rfl, skips_sknp tested Iff.rfl⟩
  next policy =>
    have tested := State.keyTest_of_notPressed (s := s) h policy
    exact ⟨skips_skp tested (iff_of_false Bool.false_ne_true id), skips_sknp tested (iff_of_true rfl trivial)⟩

/-! ## The key wait (R203) -/

/-- Settles O49: the event's key is widened into one register; without an event the step only reports. -/
theorem keyWaitResolvesOrStutters : Obligations.KeyWaitResolvesOrStutters := by
  refine fun s x => ⟨fun k hk => ?_, fun hnone => ?_, fun _ => State.keyDownNow_of_inputs⟩
  · obtain ⟨t, hnext, hx, rest⟩ := exists_next_of_setV (i := .ldVxK x) (execLdVxK_eq_next.mpr (.inl ⟨k, hk, rfl⟩))
    exact ⟨t, hnext, by rw [hx, BitVec.toNat_setWidth_of_le (by decide)], rest⟩
  · exact ⟨_, execLdVxK_eq_next.mpr (.inr ⟨hnone, rfl⟩), rfl, rfl, (FrameBut.refl _ s).emit .waiting (by simp)⟩

/-! ## The delay timer (R204, R205) -/

/-- Settles O50: one instruction writes one register, the other the timer alone. -/
theorem delayTimerIsReadAndWritten : Obligations.DelayTimerIsReadAndWritten :=
  ⟨fun _ => decode_of_and_F007, fun _ => decode_of_and_F015, fun _ x =>
    ⟨exists_next_of_setV rfl, _, rfl, rfl, rfl, exec_frame (i := .ldDTVx x) rfl⟩⟩

/-! ## The sound timer and the audio gate (R206, R32) -/

section
variable {s : State} {b : Byte}

@[simp] theorem State.setST_st (s : State) (b : Byte) : (s.setST b).st = b := by
  rw [State.setST_eq]

@[simp] theorem State.setST_pc (s : State) (b : Byte) : (s.setST b).pc = s.pc := by
  rw [State.setST_eq]

theorem State.setST_gate_on (h : s.st = 0) (hb : b ≠ 0) :
    (s.setST b).tone = true ∧ (s.setST b).events = s.events ++ [.setTone true] := by
  rw [State.setST, if_pos ⟨h, hb⟩]
  exact ⟨rfl, rfl⟩

theorem State.setST_gate_off (h : s.st ≠ 0) (hb : b = 0) :
    (s.setST b).tone = false ∧ (s.setST b).events = s.events ++ [.setTone false] := by
  rw [State.setST, if_neg fun on => h on.1, if_pos ⟨h, hb⟩]
  exact ⟨rfl, rfl⟩

/-- Between two values that are both zero or both nonzero the gate stays as it is. -/
theorem State.setST_gate_kept (h : s.st = 0 ↔ b = 0) :
    (s.setST b).tone = s.tone ∧ (s.setST b).events = s.events := by
  rw [State.setST, if_neg fun on => on.2 (h.mp on.1), if_neg fun off => off.1 (h.mpr off.2)]
  exact ⟨rfl, rfl⟩

end

/-- Settles O51: every write of `ST` is a `SetST`, and the three cases of its gate cover the four of the statement. -/
theorem soundTimerDrivesTheGate : Obligations.SoundTimerDrivesTheGate := fun s x =>
  ⟨_, rfl, s.setST_st _, State.setST_gate_on, State.setST_gate_off,
    fun h hx => State.setST_gate_kept (iff_of_true h hx), fun h hx => State.setST_gate_kept (iff_of_false h hx),
    congrArg (· + 2) (s.setST_pc _), exec_frame (i := .ldSTVx x) rfl⟩

/-! ## The timer tick (R207, R208) -/

theorem toNat_countDown (b : Byte) : (countDown b).toNat = b.toNat - 1 := by
  unfold countDown
  split
  case isTrue h => rw [h]; rfl
  case isFalse h => bv_omega

/-- `TimerTick` field by field (R208): the gate goes off at the tick that takes `ST` from 1 to 0, and at no other. -/
theorem State.timerTick_fields (s : State) : s.timerTick = { s with
    dt := countDown s.dt
    st := countDown s.st
    tone := if s.st = 1 then false else s.tone
    events := s.events ++ if s.st = 1 then [.setTone false] else [] } := by
  rw [State.timerTick_eq]
  by_cases zero : s.st = 0
  · simp [zero, countDown, State.setDT]
  · rw [if_neg zero, State.setST_eq]
    simp only [State.setDT, countDown, ne_eq, zero, sub_eq_zero, not_false_eq_true, false_and, true_and, if_false]

theorem FrameBut.timerTick {l : List Part} {s t : State} (h : FrameBut l s t) (hd : .delay ∈ l := by simp)
    (hs : .sound ∈ l := by simp) (he : .events ∈ l := by simp) : FrameBut l s t.timerTick := fun p hp => by
  rw [State.timerTick_fields]
  cases p with
  | delay => exact absurd hd hp
  | sound => exact absurd hs hp
  | events => exact absurd he hp
  | _ => exact h _ hp

theorem FrameBut.setScript {l : List Part} {s t : State} (h : FrameBut l s t) (rest : List HostOp)
    (hl : .schedule ∈ l := by simp) : FrameBut l s { t with script := rest } := fun p hp => by
  cases p with
  | schedule => exact absurd hl hp
  | _ => exact h _ hp

section
variable {s : State}

@[simp] theorem State.timerTick_dt (s : State) : s.timerTick.dt = countDown s.dt := by
  rw [State.timerTick_fields]

@[simp] theorem State.timerTick_st (s : State) : s.timerTick.st = countDown s.st := by
  rw [State.timerTick_fields]

@[simp] theorem State.timerTick_pc (s : State) : s.timerTick.pc = s.pc := by
  rw [State.timerTick_fields]

@[simp] theorem State.timerTick_script (s : State) : s.timerTick.script = s.script := by
  rw [State.timerTick_fields]

theorem State.timerTick_gate_off (h : s.st = 1) :
    s.timerTick.tone = false ∧ s.timerTick.events = s.events ++ [.setTone false] := by
  simp only [State.timerTick_fields, if_pos h, true_and]

theorem State.timerTick_gate_kept (h : s.st ≠ 1) : s.timerTick.tone = s.tone ∧ s.timerTick.events = s.events := by
  simp only [State.timerTick_fields, if_neg h, List.append_nil, true_and]

theorem step_of_script_timerTick {rest : List HostOp} (h : s.script = .timerTick :: rest) :
    step s = .next (State.timerTick { s with script := rest }) := by
  rw [step, h]

end

/-- Settles O52: the operation performed is the tick of the state with the schedule moved on. -/
theorem timerTickCountsDown : Obligations.TimerTickCountsDown := by
  refine fun s rest hs => ⟨_, step_of_script_timerTick hs, ?_, ?_,
    State.timerTick_gate_off (s := { s with script := rest }),
    State.timerTick_gate_kept (s := { s with script := rest }), State.timerTick_script _, State.timerTick_pc _,
    ((FrameBut.refl _ s).setScript rest).timerTick⟩
  · rw [State.timerTick_dt, toNat_countDown]
  · rw [State.timerTick_st, toNat_countDown]

/-! ## Any number of ticks (R207, R208) -/

section
variable {s : State} {n : Nat}

theorem toNat_ticked_dt (s : State) (n : Nat) : (ticked n s).dt.toNat = s.dt.toNat - n := by
  induction n with
  | zero => rfl
  | succ n ih => rw [ticked, State.timerTick_dt, toNat_countDown, ih, Nat.sub_sub]

theorem toNat_ticked_st (s : State) (n : Nat) : (ticked n s).st.toNat = s.st.toNat - n := by
  induction n with
  | zero => rfl
  | succ n ih => rw [ticked, State.timerTick_st, toNat_countDown, ih, Nat.sub_sub]

theorem ticked_pc (s : State) (n : Nat) : (ticked n s).pc = s.pc := by
  induction n with
  | zero => rfl
  | succ n ih => rw [ticked, State.timerTick_pc, ih]

theorem ticked_frame (s : State) (n : Nat) : FrameBut [.delay, .sound, .events] s (ticked n s) := by
  induction n with
  | zero => exact FrameBut.refl _ s
  | succ n ih => exact ih.timerTick

/-- The tick that finds `ST` at 1, and so switches the gate off, is the one after `ST - 1` others. -/
theorem ticked_st_eq_one_iff : (ticked n s).st = 1 ↔ s.st.toNat = n + 1 := by
  have one : (1 : Byte).toNat = 1 := rfl
  rw [← BitVec.toNat_inj, toNat_ticked_st, one]
  omega

theorem ticked_succ_gate_kept (h : s.st.toNat ≠ n + 1) :
    (ticked (n + 1) s).tone = (ticked n s).tone ∧ (ticked (n + 1) s).events = (ticked n s).events :=
  State.timerTick_gate_kept (mt ticked_st_eq_one_iff.mp h)

theorem ticked_gate_kept (h : s.st.toNat = 0 ∨ n < s.st.toNat) :
    (ticked n s).tone = s.tone ∧ (ticked n s).events = s.events := by
  induction n with
  | zero => exact ⟨rfl, rfl⟩
  | succ n ih =>
    obtain ⟨tone, events⟩ := ticked_succ_gate_kept (s := s) (n := n) (by omega)
    rw [tone, events]
    exact ih (by omega)

/-- The gate is kept up to the tick that finds `ST` at 1, goes off there, and is kept from then on. -/
theorem ticked_gate_off (hpos : 0 < s.st.toNat) (h : s.st.toNat ≤ n) :
    (ticked n s).tone = false ∧ (ticked n s).events = s.events ++ [.setTone false] := by
  induction n with
  | zero => omega
  | succ n ih =>
    obtain last | reached := Nat.lt_or_ge n s.st.toNat
    · have off := State.timerTick_gate_off (ticked_st_eq_one_iff.mpr (Nat.le_antisymm h last))
      rwa [(ticked_gate_kept (.inr last)).2] at off
    · obtain ⟨tone, events⟩ := ticked_succ_gate_kept (s := s) (n := n) (by omega)
      rw [tone, events]
      exact ih reached

end

/-- Settles O53, each clause by induction on the number of ticks. -/
theorem ticksSaturateAtZero : Obligations.TicksSaturateAtZero := fun s n =>
  ⟨toNat_ticked_dt s n, toNat_ticked_st s n, ticked_gate_off,
    fun h => ticked_gate_kept (h.imp_left (congrArg BitVec.toNat)), ticked_pc s n, ticked_frame s n⟩

end Sys2Proof.Machine
end

/-! # Exceptions: the conditions that stop a `Step`, and what the host does after one (60_exceptions.md) -/

section
namespace Sys2Proof.Machine

/-! ## The instructions that stop (R220, R222, R223, R228) -/

section
variable {s : State}

theorem execRet_of_empty (h : s.sp.val = 0) : execRet s = .fault (.stackUnderflow s.pc) := by
  rw [execRet, State.pop?_eq_none.mpr h]
  rfl

theorem execCall_of_full {nnn : Addr} (h : s.sp.val = 16) : execCall nnn s = .fault (.stackOverflow s.pc) := by
  rw [execCall, State.push?_eq_none.mpr h]
  rfl

/-- A key test fails in one way only: out of range, under the policy that refuses it (45_keypad_timers.md R201). -/
theorem State.keyTest_eq_error {k : Byte} {r : Refusal} (h : s.keyTest k = .error r) :
    15 < k.toNat ∧ Config.keyOor = .refuse ∧ r = .keyIndexOutOfRange k := by
  unfold State.keyTest at h
  split at h
  case isTrue => nomatch h
  case isFalse out =>
    split at h
    next policy => exact ⟨Nat.not_le.mp out, policy, (Except.error.inj h).symm⟩
    next => nomatch h
    next => nomatch h

end

/-- An instruction goes on, or it is a return on the empty stack, a call on the full one or a refused key skip. -/
theorem exec_cases (i : Instr) (s : State) :
    (∃ t, exec i s = .next t) ∨
    (i = .ret ∧ s.sp.val = 0 ∧ exec i s = .fault (.stackUnderflow s.pc)) ∨
    ((∃ nnn, i = .call nnn) ∧ s.sp.val = 16 ∧ exec i s = .fault (.stackOverflow s.pc)) ∨
    (∃ x, (i = .skp x ∨ i = .sknp x) ∧ 15 < (s.getV x).toNat ∧ Config.keyOor = .refuse ∧
      exec i s = .refused (.keyIndexOutOfRange (s.getV x))) := by
  cases i with
  | ret =>
    cases hpop : s.pop? with
    | none =>
      have empty : s.sp.val = 0 := State.pop?_eq_none.mp hpop
      exact .inr (.inl ⟨rfl, empty, execRet_of_empty empty⟩)
    | some popped => exact .inl ⟨_, execRet_eq_next.mpr ⟨_, _, hpop, rfl⟩⟩
  | call nnn =>
    cases hpush : s.push? s.pc with
    | none =>
      have full : s.sp.val = 16 := State.push?_eq_none.mp hpush
      exact .inr (.inr (.inl ⟨⟨nnn, rfl⟩, full, execCall_of_full full⟩))
    | some u => exact .inl ⟨_, execCall_eq_next.mpr ⟨_, hpush, rfl⟩⟩
  | skp x =>
    cases htest : s.keyTest (s.getV x) with
    | ok pressed => exact .inl ⟨_, execSkp_eq_next.mpr ⟨_, htest, rfl⟩⟩
    | error r =>
      obtain ⟨out, policy, rfl⟩ := State.keyTest_eq_error htest
      exact .inr (.inr (.inr ⟨x, .inl rfl, out, policy, execSkp_of_keyTest_error htest⟩))
  | sknp x =>
    cases htest : s.keyTest (s.getV x) with
    | ok pressed => exact .inl ⟨_, execSknp_eq_next.mpr ⟨_, htest, rfl⟩⟩
    | error r =>
      obtain ⟨out, policy, rfl⟩ := State.keyTest_eq_error htest
      exact .inr (.inr (.inr ⟨x, .inr rfl, out, policy, execSknp_of_keyTest_error htest⟩))
  | ldVxK x =>
    cases hkey : s.keyDownNow with
    | some k => exact .inl ⟨_, execLdVxK_eq_next.mpr (.inl ⟨k, hkey, rfl⟩)⟩
    | none => exact .inl ⟨_, execLdVxK_eq_next.mpr (.inr ⟨hkey, rfl⟩)⟩
  | _ => exact .inl ⟨_, rfl⟩

/-- An instruction faults exactly at the two limits of the stack. -/
theorem exec_eq_fault {i : Instr} {s : State} {f : Fault} : exec i s = .fault f ↔
    (i = .ret ∧ s.sp.val = 0 ∧ f = .stackUnderflow s.pc) ∨
    ((∃ nnn, i = .call nnn) ∧ s.sp.val = 16 ∧ f = .stackOverflow s.pc) := by
  constructor
  · intro h
    obtain ⟨_, hexec⟩ | ⟨hret, hsp, hexec⟩ | ⟨hcall, hsp, hexec⟩ | ⟨_, _, _, _, hexec⟩ := exec_cases i s
    · nomatch hexec.symm.trans h
    · exact .inl ⟨hret, hsp, Host.Outcome.fault.inj (h.symm.trans hexec)⟩
    · exact .inr ⟨hcall, hsp, Host.Outcome.fault.inj (h.symm.trans hexec)⟩
    · nomatch hexec.symm.trans h
  · rintro (⟨rfl, hsp, rfl⟩ | ⟨⟨nnn, rfl⟩, hsp, rfl⟩)
    · exact execRet_of_empty hsp
    · exact execCall_of_full hsp

/-- Settles O9: of the four ways an instruction can end, two are faults and one a refusal. -/
theorem onlyTheNamedConditionsStop : Obligations.OnlyTheNamedConditionsStop := by
  refine fun i s => ⟨fun f h => ?_, fun r h => ?_⟩
  · exact (exec_eq_fault.mp h).imp_left fun ⟨hret, hsp, hf⟩ => ⟨hret, Fin.ext hsp, hf⟩
  · obtain ⟨_, hexec⟩ | ⟨_, _, hexec⟩ | ⟨_, _, hexec⟩ | ⟨x, hskip, out, policy, hexec⟩ := exec_cases i s
    · nomatch hexec.symm.trans h
    · nomatch hexec.symm.trans h
    · nomatch hexec.symm.trans h
    · exact ⟨x, hskip, out, policy, Host.Outcome.refused.inj (h.symm.trans hexec)⟩

/-- Settles O35: the push fails on the full stack, and the pop on the empty one. -/
theorem stackLimitsAreFatal : Obligations.StackLimitsAreFatal := fun _ _ => ⟨execCall_of_full, execRet_of_empty⟩

/-! ## The fatal conditions of a `Step` (R221 to R223, R225) -/

/-- The fatal condition `f` is present: `PC` is past the end, or the word at `PC` is a call on the full stack or a return on
the empty one. It is the premise of `Obligations.HaltChangesNothingAndTheHostGoesOn`. -/
def State.Fatal (s : State) (f : Fault) : Prop :=
  0x200 + s.psize < s.pc.toNat ∧ f = .pcPastEnd s.pc ∨
    s.pc.toNat ≤ 0x200 + s.psize ∧ (∃ nnn, decode s.fetchWord = .call nnn) ∧ s.sp.val = 16 ∧ f = .stackOverflow s.pc ∨
    s.pc.toNat ≤ 0x200 + s.psize ∧ decode s.fetchWord = .ret ∧ s.sp.val = 0 ∧ f = .stackUnderflow s.pc

section
variable {s t : State} {f : Fault} {q : Option StepInputs} {op : HostOp} {rest : List HostOp}

theorem performStep_eq_fault_iff_fatal : performStep s = .fault f ↔ s.Fatal f := by
  rw [performStep_eq_fault, exec_eq_fault, State.pastEnd_eq_true, State.pastEnd_eq_false, and_or_left, State.Fatal]
  exact or_congr_right or_comm

/-- A halt reads none of the inputs of its `Step`, so one `Step` that halts says what every `Step` does. -/
theorem haltsWith_iff_fatal : HaltsWith s f ↔ s.Fatal f :=
  ⟨fun h => performStep_eq_fault_iff_fatal (s := s.beginStep none []) |>.mp (h none []),
    fun h _ _ => performStep_eq_fault_iff_fatal.mpr h⟩

/-- The fatal conditions are about `PC`, the stack, memory and `PSIZE` alone. -/
theorem State.Fatal.of_frame {l : List Part} (h : s.Fatal f) (hpc : t.pc = s.pc) (frame : FrameBut l s t)
    (hstack : .stack ∉ l := by simp) (hmem : .memory ∉ l := by simp) (hsize : .program ∉ l := by simp) : t.Fatal f := by
  obtain ⟨_, sp⟩ := frame .stack hstack
  have psize : t.psize = s.psize := frame .program hsize
  have word : t.fetchWord = s.fetchWord := by
    rw [State.fetchWord_eq, State.fetchWord_eq, hpc, frame .memory hmem, frame .memory hmem]
  rwa [State.Fatal, hpc, sp, psize, word]

/-- The run has ended where a `Step` would halt (R225). -/
theorem State.Fatal.inRun_eq_false (h : s.Fatal f) : s.inRun = false := by
  have ended : s.ended = true := by
    obtain ⟨hpc, _⟩ | ⟨_, ⟨nnn, hcall⟩, hsp, _⟩ | ⟨_, hret, hsp, _⟩ := h
    · rw [State.ended, State.pastEnd_eq_true.mpr hpc, Bool.true_or]
    · simp [State.ended, hcall, hsp]
    · simp [State.ended, hret, hsp]
  rw [State.inRun, ended, Bool.not_true, Bool.and_false]

/-! ## How the machine answers a halt (R224, R232) -/

/-- `s` after a `Step` that halted with `f`, and that the host follows by `rest`. -/
def State.halted (s : State) (q : Option StepInputs) (rest : List HostOp) (f : Fault) : State :=
  { s.beginStep q rest with result := some f }

theorem FrameBut.halted (s : State) (q : Option StepInputs) (rest : List HostOp) (f : Fault) :
    FrameBut [.schedule, .sampling, .result] s (s.halted q rest f) :=
  ((FrameBut.refl _ s).beginStep q rest).noteResult _

theorem HaltsWith.step_nil (h : HaltsWith s f) (hs : s.script = []) : step s = .fault f :=
  (step_of_script_nil hs).trans (invokeStep_eq_fault.mpr ⟨h none [], rfl⟩)

theorem HaltsWith.step_last (h : HaltsWith s f) (hs : s.script = [.step q]) : step s = .fault f :=
  (step_of_script_step hs).trans (invokeStep_eq_fault.mpr ⟨h q [], rfl⟩)

theorem HaltsWith.step_more (h : HaltsWith s f) (hs : s.script = .step q :: op :: rest) :
    step s = .next (s.halted q (op :: rest) f) :=
  (step_of_script_step hs).trans (invokeStep_eq_next.mpr (.inr ⟨f, h q (op :: rest), List.cons_ne_nil op rest, rfl⟩))

/-- The schedule is not what makes a `Step` halt. -/
theorem State.Fatal.of_step_last (h : step { s with script := [.step q] } = .fault f) : s.Fatal f := by
  obtain ⟨q', _, hperform⟩ := step_fault h
  exact performStep_eq_fault_iff_fatal (s := { s with script := [.step q] }.beginStep q' []) |>.mp hperform

end

/-- Settles O10: a tick touches nothing the fatal conditions read. -/
theorem haltIsStable : Obligations.HaltIsStable := by
  intro s f q h n q' op rest
  have fatal : (ticked n s).Fatal f := (State.Fatal.of_step_last h).of_frame (ticked_pc s n) (ticked_frame s n)
  have halts (script : List HostOp) : HaltsWith { ticked n s with script := script } f := haltsWith_iff_fatal.mpr fatal
  exact ⟨(halts _).step_nil rfl, (halts _).step_last rfl, _, (halts _).step_more rfl, rfl⟩

/-- Settles O58: the three premises are the fatal conditions, and the `Step` returns the state it began in. -/
theorem haltChangesNothingAndTheHostGoesOn : Obligations.HaltChangesNothingAndTheHostGoesOn :=
  fun s q op rest f hs fatal =>
    ⟨_, (haltsWith_iff_fatal.mpr fatal).step_more hs, rfl, rfl, rfl, FrameBut.halted s q (op :: rest) f⟩

/-! ## The ways on after a halt (R232; 70_reset_and_hazards.md R251 to R253) -/

section
variable {s : State} {rest : List HostOp} {bytes : List Byte}

theorem step_of_script_runEntry (h : s.script = .runEntry :: rest) :
    step s = .next (State.runEntry { s with script := rest }) := by
  rw [step, h]

theorem step_of_script_loadProgram (h : s.script = .loadProgram bytes :: rest) :
    step s = loadProgram bytes { s with script := rest } := by
  rw [step, h]

/-- `RunEntry` resets the machine for a run and keeps the registers, memory and the size of the program (R253). -/
theorem exists_step_of_script_runEntry (h : s.script = .runEntry :: rest) : ∃ u, step s = .next u ∧
    u.pc = 0x200 ∧ u.sp = 0 ∧ u.dt = 0 ∧ u.st = 0 ∧ u.i = 0 ∧ (∀ r c, u.fb.pixel r c = false) ∧ u.script = rest ∧
    (∀ r, u.getV r = s.getV r) ∧ (∀ a, u.readByte a = s.readByte a) ∧ u.psize = s.psize := by
  refine ⟨_, step_of_script_runEntry h, ?_⟩
  rw [State.runEntry_eq]
  exact ⟨rfl, rfl, rfl, rfl, rfl, Framebuffer.pixel_clear, rfl, fun _ => rfl, fun _ => rfl, rfl⟩

/-- `s` after a load of `bytes` that the host follows by `rest`: no run is in progress (R251, R252). -/
def State.loaded (s : State) (bytes : List Byte) (rest : List HostOp) : State :=
  { s.writeBytes 0x200 bytes with psize := bytes.length, running := false, script := rest }

theorem State.readByte_loaded (s : State) (hsize : bytes.length ≤ 3584) (k : Nat) (hk : k < bytes.length) :
    (s.loaded bytes rest).readByte (0x200 + k) = bytes[k] :=
  s.readByte_writeBytes_mem 0x200 bytes k hk (by omega)

/-- An image of legal size ends at or below the end of memory, so it does not wrap onto the bytes below 0x200. -/
theorem State.readByte_loaded_outside (s : State) (hsize : bytes.length ≤ 3584) {a : Nat} (ha : a < 4096)
    (out : a < 0x200 ∨ 0x200 + bytes.length ≤ a) : (s.loaded bytes rest).readByte a = s.readByte a :=
  s.readByte_writeBytes_other 0x200 bytes a fun k hk => by omega

theorem step_of_script_loadProgram_eq_next (hsize : bytes.length ≤ 3584) (ended : s.inRun = false)
    (h : s.script = .loadProgram bytes :: rest) : step s = .next (s.loaded bytes rest) :=
  (step_of_script_loadProgram h).trans (loadProgram_eq_next.mpr ⟨hsize, ended, rfl⟩)

end

/-- Settles O59: a halted machine is as it was but for the noted result, and since its run has ended, the load is taken. -/
theorem theHostRestartsAHaltedMachine : Obligations.TheHostRestartsAHaltedMachine := by
  intro s q f bytes rest hsize h
  have fatal : s.Fatal f := .of_step_last h
  have halts (script : List HostOp) : HaltsWith { s with script := script } f := haltsWith_iff_fatal.mpr fatal
  constructor
  · obtain ⟨u, entered⟩ := exists_step_of_script_runEntry (s := s.halted q (.runEntry :: rest) f) rfl
    exact ⟨_, u, (halts _).step_more rfl, entered⟩
  · have loads := step_of_script_loadProgram_eq_next (s := s.halted q (.loadProgram bytes :: .runEntry :: rest) f)
      hsize fatal.inRun_eq_false rfl
    obtain ⟨v, entered, pc, sp, dt, st, i, fb, script, regs, mem, psize⟩ :=
      exists_step_of_script_runEntry (s := (s.halted q _ f).loaded bytes (.runEntry :: rest)) rfl
    exact ⟨_, _, v, (halts _).step_more rfl, loads, entered, pc, sp, dt, st, i, fb, script, regs,
      fun k hk => (mem _).trans (State.readByte_loaded _ hsize k hk),
      fun a ha out => (mem a).trans (State.readByte_loaded_outside _ hsize ha out), psize⟩

/-! ## The table of causes (R226, R227) -/

/-- Settles O60, row by row of the table. -/
theorem causesAreNumberedAsTabulated : Obligations.CausesAreNumberedAsTabulated := fun _ _ _ _ =>
  ⟨rfl, rfl, rfl, rfl, rfl, rfl, rfl, rfl, rfl, rfl, rfl⟩

end Sys2Proof.Machine
end

/-! # The host's operations: load, run entry, power-on and stop (70_reset_and_hazards.md) -/

section
namespace Sys2Proof.Machine

/-- A run that was not entered, or that was stopped or loaded over since, is not in progress (R252). -/
theorem State.inRun_of_running_eq_false {s : State} (h : s.running = false) : s.inRun = false := by
  rw [State.inRun, h, Bool.false_and]

/-! ## LoadProgram (R251, R252) -/

theorem loadProgram_of_too_large {bytes : List Byte} {s : State} (h : 3584 < bytes.length) :
    loadProgram bytes s = .refused (.programTooLarge bytes.length) := if_pos h

theorem loadProgram_of_inRun {bytes : List Byte} {s : State} (hsize : bytes.length ≤ 3584) (run : s.inRun = true) :
    loadProgram bytes s = .refused .loadDuringRun := by
  rw [loadProgram, if_neg (Nat.not_lt.mpr hsize), if_pos run]

theorem FrameBut.loaded (s : State) (bytes : List Byte) (rest : List HostOp) :
    FrameBut [.memory, .program, .schedule, .running] s (s.loaded bytes rest) := fun p hp => by
  cases p with
  | memory | program | schedule | running => simp at hp
  | _ => exact FrameBut.refl _ s _ hp

/-- Settles O55: the two refusals are the two guards of the load, and past them the state is the loaded one. -/
theorem loadProgramCopiesOrIsRefused : Obligations.LoadProgramCopiesOrIsRefused := by
  refine fun s bytes rest hs => ⟨fun large => ?_, fun hsize run => ?_, fun hsize idle => ?_⟩
  · exact (step_of_script_loadProgram hs).trans (loadProgram_of_too_large large)
  · exact (step_of_script_loadProgram hs).trans (loadProgram_of_inRun hsize run)
  · exact ⟨_, step_of_script_loadProgram_eq_next hsize idle hs, s.readByte_loaded hsize,
      fun _ ha out => s.readByte_loaded_outside hsize ha out, rfl, State.inRun_of_running_eq_false rfl, rfl, rfl,
      FrameBut.loaded s bytes rest⟩

/-! ## RunEntry (R253) -/

theorem State.runEntry_resets (s : State) : s.runEntry.pc = 0x200 ∧ s.runEntry.sp = 0 ∧ s.runEntry.stack = s.stack ∧
    s.runEntry.dt = 0 ∧ s.runEntry.st = 0 ∧ s.runEntry.i = 0 ∧ (∀ r c, s.runEntry.fb.pixel r c = false) ∧
    s.runEntry.running = true ∧ s.runEntry.script = s.script := by
  rw [State.runEntry_eq]
  exact ⟨rfl, rfl, rfl, rfl, rfl, rfl, Framebuffer.pixel_clear, rfl, rfl⟩

/-- A tone still on is switched off before the cleared screen is presented. -/
theorem State.runEntry_gate_off {s : State} (h : s.st ≠ 0) : s.runEntry.tone = false ∧
    s.runEntry.events = s.events ++ [.setTone false, .present s.runEntry.fb] := by
  simp only [State.runEntry_eq, if_neg h, List.append_assoc, List.singleton_append, true_and]

theorem State.runEntry_gate_kept {s : State} (h : s.st = 0) : s.runEntry.tone = s.tone ∧
    s.runEntry.events = s.events ++ [.present s.runEntry.fb] := by
  simp only [State.runEntry_eq, if_pos h, List.append_nil, true_and]

theorem FrameBut.runEntry (s : State) (rest : List HostOp) :
    FrameBut [.stack, .delay, .sound, .index, .screen, .events, .schedule, .running] s
      (State.runEntry { s with script := rest }) := fun p hp => by
  rw [State.runEntry_eq]
  cases p with
  | stack | delay | sound | index | screen | events | schedule | running => simp at hp
  | _ => exact FrameBut.refl _ s _ hp

/-- Settles O54: the operation performed is the run entry of the state with the schedule moved on. -/
theorem runEntryResetsAndKeeps : Obligations.RunEntryResetsAndKeeps := by
  intro s rest hs
  obtain ⟨pc, sp, stack, dt, st, i, fb, running, script⟩ := State.runEntry_resets { s with script := rest }
  exact ⟨_, step_of_script_runEntry hs, pc, sp, stack, dt, st, i, fb, running, script,
    State.runEntry_gate_off (s := { s with script := rest }),
    State.runEntry_gate_kept (s := { s with script := rest }), FrameBut.runEntry s rest⟩

/-! ## Construct (R250) -/

/-- Nothing is listed in memory after a power-on, so every byte reads as the content that `FONT` gives it. -/
theorem State.readByte_construct (s : State) {a : Nat} (h : a < 4096) :
    s.construct.readByte a = Memory.initial s.font a := by
  simp [State.construct, State.readByte, State.reset, Memory.read, Memory.find, Nat.mod_eq_of_lt h]

theorem FrameBut.construct (s : State) :
    FrameBut [.memory, .font, .events, .schedule, .sampling, .result] State.reset s.construct := fun p hp => by
  cases p with
  | memory | font | events | schedule | sampling | result => simp at hp
  | _ => exact FrameBut.refl _ State.reset _ hp

theorem step_of_script_construct {s : State} {rest : List HostOp} (h : s.script = .construct :: rest) :
    step s = .next (State.construct { s with script := rest }) := by
  rw [step, h]

/-- Settles O56: the operation performed is the power-on, which does not read the state it starts from but for `FONT`
and what the host keeps. -/
theorem constructRestoresPowerOn : Obligations.ConstructRestoresPowerOn := by
  refine fun s rest hs => ⟨_, step_of_script_construct hs, fun a ha => ?_, fun a hlo hhi => ?_, rfl, rfl,
    FrameBut.construct _, rfl, rfl, rfl, rfl, rfl⟩
  · rw [State.readByte_construct _ (by omega), Memory.initial, dif_pos ha]
  · rw [State.readByte_construct _ hhi, Memory.initial, dif_neg (by omega)]
    rfl

/-! ## The host's stop (R256) -/

theorem FrameBut.stop {l : List Part} {s t : State} (h : FrameBut l s t) (hl : .running ∈ l := by simp) :
    FrameBut l s t.stop := fun p hp => by
  cases p with
  | running => exact absurd hl hp
  | _ => exact h _ hp

theorem step_of_script_stop {s : State} {rest : List HostOp} (h : s.script = .stop :: rest) :
    step s = .next (State.stop { s with script := rest }) := by
  rw [step, h]

/-- Settles O57: a stop clears the mark of a run in progress, and that mark is no element of the block. -/
theorem stoppingARunChangesNoElement : Obligations.StoppingARunChangesNoElement := fun s rest hs =>
  ⟨_, step_of_script_stop hs, State.inRun_of_running_eq_false rfl, rfl, rfl, ((FrameBut.refl _ s).setScript rest).stop⟩

end Sys2Proof.Machine
end
